-- ==== Sys2Proof/Word.lean ====
section
/-! DEFINITION. The one word type of the block: a byte (00_scope.md R7). -/

namespace Sys2Proof

/-- A byte: "8 bits, an unsigned value 0 to 255", bit 0 the least significant (00_scope.md R7). -/
abbrev Byte := BitVec 8

end Sys2Proof
end

