-- ==== Sys2Proof/Config.lean ====
section
/-! DEFINITION. What a build fixes: the configuration record `P` of 00_scope.md R5 and R6 (tables P1 and
P2) with the register addresses of 20_memory.md table M1, and the one free value, the byte the target
sends (20_memory.md R70). The default values stand in Machine/Defaults.lean. -/

namespace Sys2Proof

/-- `ROLE` (00_scope.md table P1): the master is the "base half", a slave a "peripheral half". -/
inductive Role where
  | master
  | slave
  deriving DecidableEq, Repr

/-- `STATUS_SOURCE` (00_scope.md table P2; 92_eei_decisions.md D15): how `currentRxPipe` obtains the
status byte. -/
inductive StatusSource where
  | readStatusReg
  | nopCommand
  deriving DecidableEq, Repr

/-- The configuration record `P`: every parameter of the step relation (00_scope.md R5, R6). "These are
fixed per firmware build, not mutable at runtime by this core." -/
structure Params where
  /-- `ROLE`, read by the boot program. -/
  role : Role
  /-- `DEVNUM`, read by the boot program. -/
  devNum : Nat
  /-- `AUTO_ACK`, read by the boot program and by LDTX. -/
  autoAck : Bool
  /-- `PAYLOAD_LEN`, read by the boot program and by LDTX. -/
  payloadLen : Nat
  /-- `ADDR_WIDTH`, read by the boot program. -/
  addrWidth : Nat
  /-- `MAX_RETRY`, read by the boot program. -/
  maxRetry : Nat
  /-- `CMD_R_REGISTER`, base of the read-register command. -/
  cmdRRegister : Byte
  /-- `CMD_W_REGISTER`, base of the write-register command. -/
  cmdWRegister : Byte
  /-- `REG_ADDR_MASK`, the bits of the command byte that carry the register address. -/
  regAddrMask : Byte
  /-- `CMD_R_RX_PAYLOAD`. -/
  cmdRRxPayload : Byte
  /-- `CMD_W_TX_PAYLOAD`, acknowledgement required. -/
  cmdWTxPayload : Byte
  /-- `CMD_W_TX_PAYLOAD_NOACK`. -/
  cmdWTxPayloadNoack : Byte
  /-- `CMD_FLUSH_TX`. -/
  cmdFlushTx : Byte
  /-- `CMD_FLUSH_RX`. -/
  cmdFlushRx : Byte
  /-- `FILL`, the placeholder byte of a read frame. -/
  fill : Byte
  /-- `LEN_MAX`, the largest data length of one frame. -/
  lenMax : Nat
  /-- `REG_STATUS`. -/
  regStatus : Byte
  /-- `REG_FIFO_STATUS`. -/
  regFifoStatus : Byte
  /-- `BIT_RX_DR`, bit number of data-ready in the status byte. -/
  bitRxDr : Nat
  /-- `BIT_TX_DS`, bit number of data-sent in the status byte. -/
  bitTxDs : Nat
  /-- `BIT_MAX_RT`, bit number of max-retries in the status byte. -/
  bitMaxRt : Nat
  /-- `IRQ_CLEAR_MASK`, the byte CLRIRQ writes. -/
  irqClearMask : Byte
  /-- `BIT_TX_EMPTY`, bit number of TX-FIFO-empty in the FIFO status register. -/
  bitTxEmpty : Nat
  /-- `RX_PIPE_NONE`, the pipe number that "indicates no data pending". -/
  rxPipeNone : BitVec 3
  /-- `STATUS_SOURCE`. -/
  statusSource : StatusSource
  /-- `T_CE_HOLD_US`. -/
  tCeHoldUs : Nat
  /-- `T_SETTLE_US`. -/
  tSettleUs : Nat
  /-- `REG_CONFIG`. -/
  regConfig : Byte
  /-- `REG_EN_AA`. -/
  regEnAa : Byte
  /-- `REG_EN_RXADDR`. -/
  regEnRxaddr : Byte
  /-- `REG_SETUP_AW`. -/
  regSetupAw : Byte
  /-- `REG_SETUP_RETR`. -/
  regSetupRetr : Byte
  /-- `REG_RF_CH`. -/
  regRfCh : Byte
  /-- `REG_RF_SETUP`. -/
  regRfSetup : Byte
  /-- `REG_RX_ADDR_P0`. -/
  regRxAddrP0 : Byte
  /-- `REG_RX_ADDR_P1`. -/
  regRxAddrP1 : Byte
  /-- `REG_TX_ADDR`. -/
  regTxAddr : Byte
  /-- `REG_RX_PW_P0`. -/
  regRxPwP0 : Byte
  /-- `REG_RX_PW_P1`. -/
  regRxPwP1 : Byte
  /-- `REG_DYNPD`. -/
  regDynpd : Byte
  /-- `REG_FEATURE`. -/
  regFeature : Byte
  /-- `CFG_PD_VALUE`, written by boot step 1. -/
  cfgPdValue : Byte
  /-- `CFG_PU_VALUE`, written by boot step 10. -/
  cfgPuValue : Byte
  /-- `RF_SETUP_VALUE`, written by boot step 3. -/
  rfSetupValue : Byte
  deriving DecidableEq, Repr

/-- The byte the target sends when nothing else says what it sends: the n-th free value. "draw is a value
the environment supplies under no law" (00_scope.md R8, 20_memory.md R70). It has no body: no proof can
see what it is. -/
opaque Config.draw : Nat → Byte

end Sys2Proof
end

