-- ==== Sys2Proof/Machine/Defaults.lean ====
section
/-! DEFINITION. The default configuration: the defaults of 00_scope.md table P2 and 20_memory.md table M1,
and for the parameters the spec leaves OPEN the example of 95_test_vectors.md P4. -/

namespace Sys2Proof.Machine

/-- The default configuration record. PRESUMED, log entry 2, unsafe where a statement names it: every command
byte, address and bit number is a default the spec marks [from general knowledge, not in source].
DESIGN CHOICE, log entry 1, safe while no statement rests on them: `ROLE`, `DEVNUM`, `AUTO_ACK`, `PAYLOAD_LEN`,
`ADDR_WIDTH`, `MAX_RETRY`, `CFG_PD_VALUE`, `CFG_PU_VALUE`, `RF_SETUP_VALUE` (program P4's), `LEN_MAX` (the suggested
32), `T_CE_HOLD_US`, `T_SETTLE_US` (the hints of 93_implementation_defined.md G9). -/
def defaultParams : Params where
  role := .slave
  devNum := 1
  autoAck := true
  payloadLen := 4
  addrWidth := 5
  maxRetry := 3
  cmdRRegister := 0x00
  cmdWRegister := 0x20
  regAddrMask := 0x1F
  cmdRRxPayload := 0x61
  cmdWTxPayload := 0xA0
  cmdWTxPayloadNoack := 0xB0
  cmdFlushTx := 0xE1
  cmdFlushRx := 0xE2
  fill := 0xFF
  lenMax := 32
  regStatus := 0x07
  regFifoStatus := 0x17
  bitRxDr := 6
  bitTxDs := 5
  bitMaxRt := 4
  irqClearMask := 0x70
  bitTxEmpty := 4
  rxPipeNone := 7
  statusSource := .readStatusReg
  tCeHoldUs := 10
  tSettleUs := 1500
  regConfig := 0x00
  regEnAa := 0x01
  regEnRxaddr := 0x02
  regSetupAw := 0x03
  regSetupRetr := 0x04
  regRfCh := 0x05
  regRfSetup := 0x06
  regRxAddrP0 := 0x0A
  regRxAddrP1 := 0x0B
  regTxAddr := 0x10
  regRxPwP0 := 0x11
  regRxPwP1 := 0x12
  regDynpd := 0x1C
  regFeature := 0x1D
  cfgPdValue := 0x08
  cfgPuValue := 0x0A
  rfSetupValue := 0x08

end Sys2Proof.Machine
end

