-- ==== Sys2Proof/Machine/Operands.lean ====
section
/-! DEFINITION. Operand assembly: the legality of a register address, the command bytes, the placeholder
bytes of a read frame (30_encoding.md R81, R85 to R87; 42_status_ops.md R154 a, b). -/

namespace Sys2Proof.Machine

/-- A register address is legal when `addr & ~REG_ADDR_MASK = 0` (20_memory.md R54, 30_encoding.md R86). -/
abbrev AddrLegal (P : Params) (addr : Byte) : Prop := addr &&& ~~~P.regAddrMask = 0

/-- `cmdRead(addr) = CMD_R_REGISTER | addr` (30_encoding.md R86); used only on legal addresses. -/
def cmdRead (P : Params) (addr : Byte) : Byte := P.cmdRRegister ||| addr

/-- `cmdWrite(addr) = CMD_W_REGISTER | addr` (30_encoding.md R86); used only on legal addresses. -/
def cmdWrite (P : Params) (addr : Byte) : Byte := P.cmdWRegister ||| addr

/-- The address bits of a register command byte (30_encoding.md R85). -/
def addrField (P : Params) (c : Byte) : Byte := c &&& P.regAddrMask

/-- The command class of a command byte, "the bits outside REG_ADDR_MASK" (30_encoding.md R85). -/
def classField (P : Params) (c : Byte) : Byte := c &&& ~~~P.regAddrMask

/-- `c` is a read-register command byte (30_encoding.md table E2). -/
abbrev IsCmdRead (P : Params) (c : Byte) : Prop := classField P c = P.cmdRRegister

/-- `c` is a write-register command byte (30_encoding.md table E2). -/
abbrev IsCmdWrite (P : Params) (c : Byte) : Prop := classField P c = P.cmdWRegister

/-- The payload-write command of LDTX, "depending on whether auto-ack is enabled" (30_encoding.md R87, R90;
41_fifo_sequencer.md R130). -/
def cmdLoadPayload (P : Params) : Byte :=
  if P.autoAck then P.cmdWTxPayload else P.cmdWTxPayloadNoack

/-- `FILL^n` (00_scope.md R7; 30_encoding.md R81). -/
def fillBytes (P : Params) (n : Nat) : List Byte := List.replicate n P.fill

/-- The command byte of the alternative status source of 42_status_ops.md R151, `CMD(0xFF)`. -/
def cmdNop : Byte := 0xFF

end Sys2Proof.Machine
end

