-- ==== Sys2Proof/Machine/Flags.lean ====
section
/-! DEFINITION. The flag extractions: the fields of the status byte and of the FIFO status byte
(30_encoding.md R91, R92; 42_status_ops.md R150, R153). The block has no flags of its own (10_state.md R29). -/

namespace Sys2Proof.Machine

/-- One bit of a byte, `v[i]` (00_scope.md R7), defined for `i` from 0 to 7: TXDRAIN, which uses bit numbers of the
configuration, refuses one of 8 or more (00_scope.md R10). -/
def bitOf (v : Byte) (i : Nat) : Bool := v.getLsbD i

/-- `rxPipeOf(status) = (status >> 1) & 0b111 = status[3:1]` (42_status_ops.md R150). -/
def rxPipeOf (status : Byte) : BitVec 3 := ((status >>> 1) &&& 0b111).setWidth 3

/-- `maxRtOf(status) = status[BIT_MAX_RT]` (42_status_ops.md R153). -/
def maxRtOf (P : Params) (status : Byte) : Bool := bitOf status P.bitMaxRt

/-- `txEmptyOf(fifoStatus) = fifoStatus[BIT_TX_EMPTY]` (42_status_ops.md R153). -/
def txEmptyOf (P : Params) (fifoStatus : Byte) : Bool := bitOf fifoStatus P.bitTxEmpty

/-- The data-ready bit of a status byte (30_encoding.md R91); read by the requester only. -/
def rxDrOf (P : Params) (status : Byte) : Bool := bitOf status P.bitRxDr

/-- The data-sent bit of a status byte (30_encoding.md R91, 42_status_ops.md R153); read by the requester
only. -/
def txDsOf (P : Params) (status : Byte) : Bool := bitOf status P.bitTxDs

/-- `1 << i` on a byte, for a bit number from 0 to 7 (00_scope.md R7, 30_encoding.md R92): CLRIRQ refuses an
`IRQ_CLEAR_MASK` made with another (00_scope.md R10). DESIGN CHOICE, log entry 27, unsafe for the simulator only: to the
reference target of 20_memory.md R71, given with the defaults, a flag of bit number 8 or more has no bit and is 0. -/
def bitByte (i : Nat) : Byte := (1 : Byte) <<< i

/-- The three latched status bits: `(1 << BIT_RX_DR) | (1 << BIT_TX_DS) | (1 << BIT_MAX_RT)`, the value
30_encoding.md R92 gives to `IRQ_CLEAR_MASK`. -/
def latchedBits (P : Params) : Byte := bitByte P.bitRxDr ||| bitByte P.bitTxDs ||| bitByte P.bitMaxRt

end Sys2Proof.Machine
end

