-- ==== Sys2Proof/Machine/Ranges.lean ====
section
/-! DEFINITION. The ranges the parameters are defined on (00_scope.md tables P1, P2; 30_encoding.md R92;
70_reset_and_hazards.md R204 to R207, R209, R213). "A parameter used outside the range it is defined on" makes the
operation, or the item of the boot program, that uses it `refuse` (00_scope.md R10; log entry 28). -/

namespace Sys2Proof.Machine

/-- `LEN_MAX` is "at least `max(5, PAYLOAD_LEN)`" (00_scope.md table P2; 92_eei_decisions.md D9). -/
abbrev LenMaxLegal (P : Params) : Prop := max 5 P.payloadLen ≤ P.lenMax

/-- `PAYLOAD_LEN` is 1 to 32 (00_scope.md table P1). -/
abbrev PayloadLenLegal (P : Params) : Prop := 1 ≤ P.payloadLen ∧ P.payloadLen ≤ 32

/-- A bit number of a byte: 0 to 7 (00_scope.md R7). -/
abbrev BitLegal (i : Nat) : Prop := i ≤ 7

/-- `IRQ_CLEAR_MASK` is the byte 30_encoding.md R92 gives, the bits of three bit numbers of a byte. -/
abbrev IrqMaskLegal (P : Params) : Prop :=
  BitLegal P.bitRxDr ∧ BitLegal P.bitTxDs ∧ BitLegal P.bitMaxRt ∧ P.irqClearMask = latchedBits P

/-- `ADDR_WIDTH` is 3, 4 or 5 (70_reset_and_hazards.md R207). -/
abbrev WidthLegal (P : Params) : Prop := 3 ≤ P.addrWidth ∧ P.addrWidth ≤ 5

/-- `MAX_RETRY` is 0 to 15, "a 4-bit field" (00_scope.md table P1; 42_status_ops.md R154). -/
abbrev RetryLegal (P : Params) : Prop := P.maxRetry ≤ 15

/-- `CFG_PD_VALUE` "equals `CFG_PU_VALUE` with the power bit and the primary-receiver bit cleared"
(70_reset_and_hazards.md R204), in the layout of 20_memory.md table M1. -/
abbrev PowerDownLegal (P : Params) : Prop := P.cfgPdValue = P.cfgPuValue &&& ~~~0x03

/-- `RF_SETUP_VALUE` has "bit 3 set, bit 5 clear and a small value in bits 2:1" (70_reset_and_hazards.md R206): DESIGN
CHOICE, log entry 30, safe: 0 or 1, the two values R206 gives as examples. -/
abbrev RfSetupLegal (P : Params) : Prop :=
  bitOf P.rfSetupValue 3 = true ∧ bitOf P.rfSetupValue 5 = false ∧ bitOf P.rfSetupValue 2 = false

/-- `CFG_PU_VALUE` "has the power bit set, the primary-receiver bit set exactly when `ROLE = Master`, CRC enabled, and
otherwise the bits of `CFG_PD_VALUE`" (70_reset_and_hazards.md R213), in the layout of 20_memory.md table M1. -/
abbrev PowerUpLegal (P : Params) : Prop :=
  P.cfgPuValue = P.cfgPdValue ||| 0x02 ||| (if P.role = .master then 0x01 else 0x00) ∧ bitOf P.cfgPuValue 3 = true

end Sys2Proof.Machine
end

