-- ==== Sys2Proof/Syntax.lean ====
section
/-! DEFINITION. The thirteen operations of the block with their typed arguments (30_encoding.md R88,
table E3): "an enumeration of thirteen cases with typed arguments, which a model writes as one inductive
type with one constructor per operation" (R95). -/

namespace Sys2Proof

/-- A request to the block. Constructor names are the mnemonics of 30_encoding.md table E3 in small
letters. -/
inductive Instr where
  /-- `RDREG addr`, the source's `readRegister` (40_register_access.md R116). -/
  | rdreg (addr : Byte)
  /-- `RDBUF addr, n`, `readBuffer` (R117). -/
  | rdbuf (addr : Byte) (n : Nat)
  /-- `WRREG addr, b`, `writeRegister` (R118). -/
  | wrreg (addr : Byte) (b : Byte)
  /-- `WRBUF addr, w`, `writeBuffer` (R119). -/
  | wrbuf (addr : Byte) (w : List Byte)
  /-- `CMD op`, `command` (R120). -/
  | cmd (op : Byte)
  /-- `LDTX w`, `loadTransmitPayload` (41_fifo_sequencer.md R130). -/
  | ldtx (w : List Byte)
  /-- `RDRX n`, `readReceivedPayload` (R131). -/
  | rdrx (n : Nat)
  /-- `FLTX`, flush of the TX FIFO (R132). -/
  | fltx
  /-- `FLRX`, flush of the RX FIFO (R133). -/
  | flrx
  /-- `RXPIPE`, `currentRxPipe` (42_status_ops.md R151). -/
  | rxpipe
  /-- `CLRIRQ`, `clearInterruptFlags` (R152). -/
  | clrirq
  /-- `TXPULSE`, `pulseTransmit` (43_chip_enable_ops.md R161). -/
  | txpulse
  /-- `TXDRAIN`, `transmitAndDrain` (R162). -/
  | txdrain
  deriving DecidableEq, Repr

end Sys2Proof
end

