-- ==== Sys2Proof/WellFormed.lean ====
section
/-! DEFINITION. Which requests the spec gives a meaning to, under which configuration: the operand
conditions of R116 to R120, R130 to R133, R151, R152, R161, R162 and the constraints on the configuration
record of 00_scope.md R5, R6 and 70_reset_and_hazards.md R204, R206, R213. -/

namespace Sys2Proof

open Machine

/-- A frame of `n` data exchanges is admitted: `n <= LEN_MAX` (20_memory.md R58, 40_register_access.md R110), for a
`LEN_MAX` in its range (00_scope.md R10, table P2). -/
abbrev LengthLegal (P : Params) (n : Nat) : Prop := LenMaxLegal P ∧ n ≤ P.lenMax

/-- TXDRAIN can poll: both registers can be read and both bit numbers are a byte's (43_chip_enable_ops.md R163;
00_scope.md R7, R10). -/
def txdrainLegal (P : Params) : Bool :=
  decide (AddrLegal P P.regFifoStatus ∧ AddrLegal P P.regStatus ∧ LengthLegal P 1 ∧ BitLegal P.bitTxEmpty ∧
    BitLegal P.bitMaxRt)

/-- The requests the spec gives a meaning to; outside it "the model refuses" (30_encoding.md R86,
20_memory.md R58, 41_fifo_sequencer.md R130; 00_scope.md R10). -/
def wellFormed (P : Params) : Instr → Bool
  | .rdreg addr => decide (AddrLegal P addr ∧ LengthLegal P 1)
  | .rdbuf addr n => decide (AddrLegal P addr ∧ LengthLegal P n)
  | .wrreg addr _ => decide (AddrLegal P addr ∧ LengthLegal P 1)
  | .wrbuf addr w => decide (AddrLegal P addr ∧ LengthLegal P w.length)
  | .cmd _ => decide (LengthLegal P 0)
  | .ldtx w => decide (PayloadLenLegal P ∧ w.length = P.payloadLen ∧ LengthLegal P w.length)
  | .rdrx n => decide (LengthLegal P n)
  | .fltx => decide (LengthLegal P 0)
  | .flrx => decide (LengthLegal P 0)
  | .rxpipe =>
    match P.statusSource with
    | .readStatusReg => decide (AddrLegal P P.regStatus ∧ LengthLegal P 1)
    | .nopCommand => decide (LengthLegal P 0)
  | .clrirq => decide (AddrLegal P P.regStatus ∧ LengthLegal P 1 ∧ IrqMaskLegal P)
  | .txpulse => true
  | .txdrain => txdrainLegal P

/-- What the block's operations need of the configuration: `LEN_MAX` "at least max(5, PAYLOAD_LEN)"
(00_scope.md table P2), the command bases outside the address field, so that "no bit of the base and the
address overlap" (42_status_ops.md R154 a), the two registers the operations read and write legal, and
`IRQ_CLEAR_MASK` as 30_encoding.md R92 gives it, bit numbers of a byte (R7). -/
def blockLegal (P : Params) : Bool :=
  decide (LenMaxLegal P ∧
    P.cmdRRegister &&& P.regAddrMask = 0 ∧ P.cmdWRegister &&& P.regAddrMask = 0 ∧
    AddrLegal P P.regStatus ∧ AddrLegal P P.regFifoStatus ∧
    BitLegal P.bitTxEmpty ∧ IrqMaskLegal P)

/-- The command bytes the target tells apart: the two register classes, the payload commands and the flushes are
pairwise distinct, and no fixed command byte is a register command (30_encoding.md table E2). Only the reference
target, which decodes command bytes, needs it. -/
def commandsDistinct (P : Params) : Bool :=
  let fixed := [P.cmdRRxPayload, P.cmdWTxPayload, P.cmdWTxPayloadNoack, P.cmdFlushTx, P.cmdFlushRx]
  decide (P.cmdRRegister ≠ P.cmdWRegister ∧ fixed.Nodup ∧
    ∀ c ∈ fixed, ¬IsCmdRead P c ∧ ¬IsCmdWrite P c)

/-- What the boot program needs besides: its registers legal, and the constraints on its three OPEN bytes
(70_reset_and_hazards.md R204, R206, R213). -/
def bootLegal (P : Params) : Bool :=
  decide (AddrLegal P P.regConfig ∧ AddrLegal P P.regEnAa ∧ AddrLegal P P.regEnRxaddr ∧
    AddrLegal P P.regSetupAw ∧ AddrLegal P P.regSetupRetr ∧ AddrLegal P P.regRfCh ∧
    AddrLegal P P.regRfSetup ∧ AddrLegal P P.regRxAddrP0 ∧ AddrLegal P P.regRxAddrP1 ∧
    AddrLegal P P.regTxAddr ∧ AddrLegal P P.regRxPwP0 ∧ AddrLegal P P.regRxPwP1 ∧
    AddrLegal P P.regDynpd ∧ AddrLegal P P.regFeature) &&
  decide (PowerDownLegal P ∧ RfSetupLegal P ∧ PowerUpLegal P)

/-- The build-time values whose wrong choice is "a latent misconfiguration, not a surfaced error"
(70_reset_and_hazards.md R221; 93_implementation_defined.md U8, U9; 00_scope.md table P1). -/
def buildLegal (P : Params) : Bool :=
  decide (WidthLegal P ∧ (P.role = .slave → P.devNum ≤ 1) ∧ PayloadLenLegal P ∧ RetryLegal P)

end Sys2Proof
end

