-- ==== Sys2Proof/Decode.lean ====
section
/-! DEFINITION. What an operation puts on the bus, read back and written out.

The request interface has no binary encoding (30_encoding.md R95, 92_eei_decisions.md D2): what stands in the
place of an instruction's words is the frame on the bus, one command byte and then the data bytes inside a
chip-select bracket (R80), and "the patterns overlap and cannot be used to decode a frame back to one operation"
(R95). So `candidates` gives ALL the operations that send a bus word, the most specific row of the opcode
table first, and `decode` is the first of them. DESIGN CHOICE, log entry 14, safe: the step runs the
requester's typed request and never decodes. -/

namespace Sys2Proof

open Machine

/-- What one operation sends: whether chip-enable is raised around it (43_chip_enable_ops.md R160), and the
bytes sent inside each chip-select bracket, in order (30_encoding.md R84: frames are delimited by chip-select).
For TXDRAIN: the frames of its shortest trace, one poll (R162). -/
structure BusWord where
  chipEnable : Bool
  frames : List (List Byte)
  deriving DecidableEq, Repr

/-- Why a bus word is no operation's. -/
inductive DecodeError where
  /-- no frame and no chip-enable pulse: no operation sends nothing -/
  | nothingSent
  /-- a bracket with no exchange, "possible only through reset" (95_test_vectors.md V92) -/
  | emptyBracket
  /-- several frames with chip-enable low: no operation makes them (30_encoding.md table E3) -/
  | severalFrames
  /-- the command byte with these data bytes is no operation's frame (30_encoding.md tables E1, E2) -/
  | noSuchFrame (command : Byte)
  /-- frames under chip-enable that are not the poll of TXDRAIN (43_chip_enable_ops.md R163) -/
  | notAPoll
  deriving DecidableEq, Repr

/-- `[x]` if the row matches, nothing otherwise. -/
def row (hit : Bool) (i : Instr) : List Instr := if hit then [i] else []

/-- The rows of 30_encoding.md tables E2 and E3 whose one frame is the command byte `c` and the data bytes
`ds`, the most specific first. -/
def frameRows (P : Params) (c : Byte) (ds : List Byte) : List Instr :=
  row (decide (c = P.cmdFlushTx ∧ ds = [] ∧ LengthLegal P 0)) .fltx ++
  row (decide (c = P.cmdFlushRx ∧ ds = [] ∧ LengthLegal P 0)) .flrx ++
  row (decide (c = P.cmdRRxPayload ∧ ds = fillBytes P ds.length ∧ LengthLegal P ds.length))
    (.rdrx ds.length) ++
  row (decide (c = cmdLoadPayload P ∧ PayloadLenLegal P ∧ ds.length = P.payloadLen ∧ LengthLegal P ds.length)) (.ldtx ds) ++
  row (match P.statusSource with
    | .readStatusReg => decide (c = cmdRead P P.regStatus ∧ ds = [P.fill] ∧ AddrLegal P P.regStatus ∧ LengthLegal P 1)
    | .nopCommand => decide (c = cmdNop ∧ ds = [] ∧ LengthLegal P 0)) .rxpipe ++
  row (decide (c = cmdWrite P P.regStatus ∧ ds = [P.irqClearMask] ∧ AddrLegal P P.regStatus ∧ LengthLegal P 1 ∧
    IrqMaskLegal P)) .clrirq ++
  row (decide (IsCmdRead P c ∧ ds = [P.fill] ∧ LengthLegal P 1)) (.rdreg (addrField P c)) ++
  row (decide (IsCmdWrite P c ∧ ds.length = 1 ∧ LengthLegal P 1)) (.wrreg (addrField P c) (ds.headD 0)) ++
  row (decide (IsCmdRead P c ∧ ds = fillBytes P ds.length ∧ LengthLegal P ds.length))
    (.rdbuf (addrField P c) ds.length) ++
  row (decide (IsCmdWrite P c ∧ LengthLegal P ds.length)) (.wrbuf (addrField P c) ds) ++
  row (decide (ds = [] ∧ LengthLegal P 0)) (.cmd c)

/-- TXDRAIN's poll: a read of the FIFO status register, then one of the status register
(43_chip_enable_ops.md R163). -/
def isPoll (P : Params) (frames : List (List Byte)) : Bool :=
  decide (frames = [[cmdRead P P.regFifoStatus, P.fill], [cmdRead P P.regStatus, P.fill]] ∧
    txdrainLegal P = true)

/-- Every operation that sends the bus word, the most specific row first. -/
def candidates (P : Params) (b : BusWord) : List Instr :=
  match b.chipEnable, b.frames with
  | true, [] => [.txpulse]
  | true, frames => row (isPoll P frames) .txdrain
  | false, [c :: ds] => frameRows P c ds
  | false, _ => []

/-- Why `candidates` is empty. -/
def decodeError (b : BusWord) : DecodeError :=
  match b.chipEnable, b.frames with
  | true, _ => .notAPoll
  | false, [] => .nothingSent
  | false, [[]] => .emptyBracket
  | false, [c :: _] => .noSuchFrame c
  | false, _ :: _ :: _ => .severalFrames

/-- The operation a bus word is read as: the most specific one that sends it. -/
def decode (P : Params) (b : BusWord) : Except DecodeError Instr :=
  match candidates P b with
  | i :: _ => .ok i
  | [] => .error (decodeError b)

/-- What an operation sends, from 30_encoding.md tables E1 to E3: a read frame sends its command byte and
FILL^n (R81), a write frame its command byte and the data (R82), a bare command its byte alone (R83). -/
def encode (P : Params) : Instr → BusWord
  | .rdreg addr => ⟨false, [[cmdRead P addr, P.fill]]⟩
  | .rdbuf addr n => ⟨false, [cmdRead P addr :: fillBytes P n]⟩
  | .wrreg addr b => ⟨false, [[cmdWrite P addr, b]]⟩
  | .wrbuf addr w => ⟨false, [cmdWrite P addr :: w]⟩
  | .cmd op => ⟨false, [[op]]⟩
  | .ldtx w => ⟨false, [cmdLoadPayload P :: w]⟩
  | .rdrx n => ⟨false, [P.cmdRRxPayload :: fillBytes P n]⟩
  | .fltx => ⟨false, [[P.cmdFlushTx]]⟩
  | .flrx => ⟨false, [[P.cmdFlushRx]]⟩
  | .rxpipe =>
    match P.statusSource with
    | .readStatusReg => ⟨false, [[cmdRead P P.regStatus, P.fill]]⟩
    | .nopCommand => ⟨false, [[cmdNop]]⟩
  | .clrirq => ⟨false, [[cmdWrite P P.regStatus, P.irqClearMask]]⟩
  | .txpulse => ⟨true, []⟩
  | .txdrain => ⟨true, [[cmdRead P P.regFifoStatus, P.fill], [cmdRead P P.regStatus, P.fill]]⟩

/-- The bus word of the opcode-table row whose command byte is `c`, every operand byte zero; what the row's
"data_out" fixes (FILL, IRQ_CLEAR_MASK, the second frame of a poll) is as the row says. -/
def tableWord (P : Params) (c : Byte) : BusWord :=
  if c = cmdRead P P.regFifoStatus then ⟨true, [[c, P.fill], [cmdRead P P.regStatus, P.fill]]⟩
  else if c = P.cmdFlushTx ∨ c = P.cmdFlushRx ∨ c = P.cmdRRxPayload then ⟨false, [[c]]⟩
  else if c = cmdLoadPayload P then ⟨false, [c :: List.replicate P.payloadLen 0]⟩
  else if c = cmdWrite P P.regStatus then ⟨false, [[c, P.irqClearMask]]⟩
  else if IsCmdRead P c then ⟨false, [[c, P.fill]]⟩
  else if IsCmdWrite P c then ⟨false, [[c, 0]]⟩
  else ⟨false, [[c]]⟩

/-- The operation the decoder reads from a row of spec/opcode_table.json: `nbits` is 8 for a row with a command
byte and 0 for TXPULSE, which "emits no frame and so has no command-byte pattern". -/
def decodeTableWord (nbits w : Nat) : Option Instr :=
  if nbits = 0 then (decode defaultParams ⟨true, []⟩).toOption
  else if nbits = 8 then (decode defaultParams (tableWord defaultParams (BitVec.ofNat 8 w))).toOption
  else none

end Sys2Proof
end

