-- ==== Sys2Proof/Machine/Memory.lean ====
section
/-! DEFINITION. The one memory of the model: the register map of the reference target (20_memory.md R71,
"a map reg : address -> byte sequence"), as cells in canonical form. The block itself has no memory
(20_memory.md, head; R53). -/

namespace Sys2Proof.Machine

/-- Cells of the register map: key `address + 256 * byte index`, one byte each (log entry 21). -/
abbrev Memory := List Host.Cell

/-- The canonical form: keys strictly rising. An unlisted key reads as no byte at all, so no entry can
equal what an unlisted key reads as. -/
abbrev Memory.wf (m : Memory) : Prop := m.Pairwise (fun a b => a.1 < b.1)

/-- The byte at a key; nothing where no byte is known (93_implementation_defined.md U2, U18). -/
def Memory.read : Memory → Nat → Option Byte
  | [], _ => none
  | (k, b) :: rest, key => if k = key then some b else Memory.read rest key

/-- Stores a byte at a key, keeping the canonical form. -/
def Memory.write : Memory → Nat → Byte → Memory
  | [], key, b => [(key, b)]
  | (k, old) :: rest, key, b =>
    if key < k then (key, b) :: (k, old) :: rest
    else if key = k then (k, b) :: rest
    else (k, old) :: Memory.write rest key b

/-- The key of byte `i` of the register at `addr`: `reg[addr][i]` of 20_memory.md R71. -/
def regKey (addr : Byte) (i : Nat) : Nat := addr.toNat + 256 * i

end Sys2Proof.Machine
end

