-- ==== Sys2Proof/Machine/Target.lean ====
section
/-! DEFINITION. The target at the far end of the transport, as the environment of the block: an oracle
(20_memory.md R70), a line stuck at one level (95_test_vectors.md V76, V77), or the reference target of
20_memory.md R71, which is "for tests only" and "trusted for nothing". -/

namespace Sys2Proof.Machine

/-- Where the reference target stands inside a chip-select bracket. -/
inductive Bracket where
  /-- chip-select is high -/
  | outside
  /-- chip-select went low and no byte has been exchanged -/
  | selected
  /-- command byte `command` has been exchanged, then `count` data bytes, of which `got` were received -/
  | inFrame (command : Byte) (count : Nat) (got : List Byte)
  deriving DecidableEq, Repr

/-- The reference target's state (20_memory.md R71): "a map reg, a TX queue of payloads, an RX queue of pairs
(pipe number, payload), and three latched flag bits fl". -/
structure RefTarget where
  reg : Memory
  tx : List (List Byte)
  rx : List (BitVec 3 × List Byte)
  fl : Byte
  bracket : Bracket
  deriving DecidableEq, Repr

/-- The pipe number of the payload at the RX queue's head, "or RX_PIPE_NONE when that queue is empty" (R71). -/
def RefTarget.headPipe (P : Params) (r : RefTarget) : BitVec 3 :=
  match r.rx with
  | [] => P.rxPipeNone
  | (p, _) :: _ => p

/-- `st = fl | (p << 1)` (R71). -/
def RefTarget.status (P : Params) (r : RefTarget) : Byte :=
  r.fl ||| ((r.headPipe P).setWidth 8 <<< 1)

/-- The FIFO status byte: bit BIT_TX_EMPTY "1 exactly when the TX queue is empty", bit 0 "1 exactly when the
RX queue is empty", "other bits 0" (R71). DESIGN CHOICE, log entry 27, unsafe for the chip: with BIT_TX_EMPTY = 0 that one
bit is 1 when either queue is empty. -/
def RefTarget.fifoStatus (P : Params) (r : RefTarget) : Byte :=
  (if r.tx = [] then bitByte P.bitTxEmpty else 0) ||| (if r.rx = [] then 1 else 0)

/-- Byte `i` that register `addr` answers to a read (R71); nothing where R71 leaves it unspecified. DESIGN CHOICE, log
entry 27, unsafe for the chip: with `REG_FIFO_STATUS = REG_STATUS` (90_conflicts.md C6) such a read answers `st`. -/
def RefTarget.readByte (P : Params) (r : RefTarget) (addr : Byte) (i : Nat) : Option Byte :=
  if addr = P.regStatus then some (r.status P)
  else if addr = P.regFifoStatus then some (r.fifoStatus P)
  else r.reg.read (regKey addr i)

/-- Data byte `i` written to register `addr` (R71): into the status register it clears the latched bits "where
the data byte has a 1; nothing else changes". DESIGN CHOICE, log entry 21, unsafe for the chip: of several data bytes written
to the status register, where R71 speaks of one, each clears in turn. -/
def RefTarget.writeByte (P : Params) (r : RefTarget) (addr : Byte) (i : Nat) (b : Byte) : RefTarget :=
  if addr = P.regStatus then { r with fl := r.fl &&& ~~~(b &&& latchedBits P) }
  else { r with reg := r.reg.write (regKey addr i) b }

/-- Byte `i` of the payload at the RX queue's head; nothing when there is none (93_implementation_defined.md
U6). -/
def RefTarget.payloadByte (r : RefTarget) (i : Nat) : Option Byte :=
  match r.rx with
  | [] => none
  | (_, payload) :: _ => payload[i]?

/-- Data exchange `i` of the frame of command byte `c`: the byte answered (nothing: unspecified) and the target
after it (R71). DESIGN CHOICE, log entry 27, unsafe for the chip: of two commands given one code the first tested here, and
in `RefTarget.endFrame`, is taken. -/
def RefTarget.dataByte (P : Params) (r : RefTarget) (c : Byte) (i : Nat) (out : Byte) : Option Byte × RefTarget :=
  if IsCmdRead P c then (r.readByte P (addrField P c) i, r)
  else if IsCmdWrite P c then (none, r.writeByte P (addrField P c) i out)
  else if c = P.cmdRRxPayload then (r.payloadByte i, r)
  else (none, r)

/-- One byte exchange with the reference target (R71): the status byte during the command exchange, then the
data of the command. An exchange outside a bracket has no meaning there and answers nothing. -/
def RefTarget.exchange (P : Params) (r : RefTarget) (out : Byte) : Option Byte × RefTarget :=
  match r.bracket with
  | .outside => (none, r)
  | .selected => (some (r.status P), { r with bracket := .inFrame out 0 [] })
  | .inFrame c i got =>
    ((r.dataByte P c i out).1,
      { (r.dataByte P c i out).2 with bracket := .inFrame c (i + 1) (got ++ [out]) })

/-- What the end of the frame of command byte `c` with the received data `got` does (R71): a payload write
appends one payload, a payload read removes the head, a flush empties its queue. DESIGN CHOICE, log entry 21, unsafe for
the chip: a payload write with no data byte (`CMD 0xA0`, 93_implementation_defined.md U5) appends an empty payload, and a
payload read or flush acts whatever the number of data bytes (U5, U6). -/
def RefTarget.endFrame (P : Params) (r : RefTarget) (c : Byte) (got : List Byte) : RefTarget :=
  if IsCmdRead P c then r
  else if IsCmdWrite P c then r
  else if c = P.cmdRRxPayload then { r with rx := r.rx.tail }
  else if c = P.cmdWTxPayload ∨ c = P.cmdWTxPayloadNoack then { r with tx := r.tx ++ [got] }
  else if c = P.cmdFlushTx then { r with tx := [] }
  else if c = P.cmdFlushRx then { r with rx := [] }
  else r

/-- Chip-select goes low: a bracket opens. -/
def RefTarget.select (r : RefTarget) : RefTarget := { r with bracket := .selected }

/-- Chip-select goes high: "the target learns that a frame has ended only from CS(1)" (30_encoding.md R84). -/
def RefTarget.deselect (P : Params) (r : RefTarget) : RefTarget :=
  match r.bracket with
  | .inFrame c _ got => { r.endFrame P c got with bracket := .outside }
  | .selected => { r with bracket := .outside }
  | .outside => { r with bracket := .outside }

/-- The environment at the far end of the transport. DESIGN CHOICE, log entry 4, safe: statements hold for every
target unless they name one. -/
inductive Target where
  /-- every answer is a draw (20_memory.md R70): the script's bytes first, then free values -/
  | oracle (script : List Byte)
  /-- every answer is `b`: "an absent chip with the input pulled low", or high (95_test_vectors.md V76, V77) -/
  | constant (b : Byte)
  /-- the reference target of 20_memory.md R71 -/
  | reference (r : RefTarget)
  deriving DecidableEq, Repr

/-- The answer to one exchange (nothing: a free value) and the target after it. -/
def Target.exchange (P : Params) (t : Target) (out : Byte) : Option Byte × Target :=
  match t with
  | .oracle [] => (none, .oracle [])
  | .oracle (b :: rest) => (some b, .oracle rest)
  | .constant b => (some b, .constant b)
  | .reference r => ((r.exchange P out).1, .reference (r.exchange P out).2)

/-- Chip-select goes low at the target. -/
def Target.select (t : Target) : Target :=
  match t with
  | .reference r => .reference r.select
  | .oracle script => .oracle script
  | .constant b => .constant b

/-- Chip-select goes high at the target. -/
def Target.deselect (P : Params) (t : Target) : Target :=
  match t with
  | .reference r => .reference (r.deselect P)
  | .oracle script => .oracle script
  | .constant b => .constant b

/-- The canonical form of the reference target's register map. -/
def Target.wf (t : Target) : Bool :=
  match t with
  | .reference r => decide r.reg.wf
  | .oracle _ => true
  | .constant _ => true

end Sys2Proof.Machine
end

