-- ==== Sys2Proof/Machine/State.lean ====
section
/-! DEFINITION. The state: the block's own elements (10_state.md R20, table S1), where the block stands in an
operation, what the observer sees (00_scope.md R9), and the environment the step reads. -/

namespace Sys2Proof.Machine

/-- The electrical level of an output line (00_scope.md R8): `low` is 0, `high` is 1. -/
inductive Level where
  | low
  | high
  deriving DecidableEq, Repr

/-- `PHASE` (10_state.md R23); `fin` is the spec's `END`. -/
inductive Phase where
  | idle
  | cmd
  | data
  | fin
  deriving DecidableEq, Repr

/-- `OPK`, the frame format (10_state.md R24; 30_encoding.md R81 to R83). -/
inductive FrameKind where
  /-- `FR`, read frame -/
  | fr
  /-- `FW`, write frame -/
  | fw
  /-- `FC`, bare command -/
  | fc
  deriving DecidableEq, Repr

/-- One event of the trace (00_scope.md R9; 20_memory.md R50). -/
inductive Event where
  /-- `CS(level)` -/
  | cs (level : Level)
  /-- `X(out, in)` -/
  | x (out answer : Byte)
  /-- `CE(level)` -/
  | ce (level : Level)
  /-- `DLY(n)` -/
  | dly (us : Nat)
  deriving DecidableEq, Repr

/-- What an operation hands back to the requester (30_encoding.md table E3, column result). -/
inductive Result where
  | byte (b : Byte)
  | bytes (bs : List Byte)
  | status (b : Byte)
  | pipe (p : BitVec 3)
  | nothing
  deriving DecidableEq, Repr

/-- How an operation makes its result from `(STAT, RBUF)` when its frame ends (40_register_access.md R114). -/
inductive Return where
  /-- RDREG: the byte of the data exchange -/
  | dataByte
  /-- RDBUF, RDRX: all bytes of the data exchanges -/
  | dataBytes
  /-- WRREG, WRBUF, CMD, LDTX, FLTX, FLRX: the byte of the command exchange -/
  | status
  /-- RXPIPE by register read: the pipe field of the data byte -/
  | pipeOfData
  /-- RXPIPE by NopCommand: the pipe field of the status byte -/
  | pipeOfStatus
  /-- CLRIRQ: no result, the status byte is dropped -/
  | nothing
  deriving DecidableEq, Repr

/-- A frame request `(k, c, w, n)` (40_register_access.md R110, R111). -/
structure FrameReq where
  kind : FrameKind
  command : Byte
  data : List Byte
  len : Nat
  deriving DecidableEq, Repr

/-- Where TXPULSE is (43_chip_enable_ops.md R161). -/
inductive PulseAt where
  /-- CE(1) is done, DLY comes next -/
  | raised
  /-- DLY is done, CE(0) comes next -/
  | held
  deriving DecidableEq, Repr

/-- Where TXDRAIN is (43_chip_enable_ops.md R162, R163). -/
inductive DrainAt where
  /-- CE(1) is done, DLY comes next -/
  | raised
  /-- the read of REG_FIFO_STATUS comes next or is in progress -/
  | readFifo
  /-- the read of REG_STATUS comes next or is in progress; `e` is what the first read of this poll showed -/
  | readStatus (e : Bool)
  /-- the exit test held, CE(0) comes next -/
  | lower
  deriving DecidableEq, Repr

/-- Which operation is in progress. The model's own field, DESIGN CHOICE, log entry 6, safe: R114 hands a frame's
result to "the operation that asked for the frame", and TXPULSE and TXDRAIN are several events long. -/
inductive Activity where
  | idle
  /-- a one-frame operation; its frame's end gives the result -/
  | frame (ret : Return)
  | pulse (at_ : PulseAt)
  | drain (at_ : DrainAt)
  deriving DecidableEq, Repr

/-- A requester's program that goes on where the spec predicts nothing (70_reset_and_hazards.md R207, R209; 00_scope.md
R10). -/
inductive Unpredicted where
  /-- boot step 6 with an `ADDR_WIDTH` other than 3, 4, 5 (93_implementation_defined.md U8) -/
  | addressWidth
  /-- boot step 6 of a slave whose `DEVNUM` is not 0 or 1 (93_implementation_defined.md U9) -/
  | deviceNumber
  /-- a `MAX_RETRY` that does not fit its 4-bit field (00_scope.md table P1, R10) -/
  | retryCount
  /-- boot step 6 of a master whose `PAYLOAD_LEN` is not 1 to 32 (00_scope.md table P1, R10) -/
  | payloadWidth
  /-- boot step 1 with a `CFG_PD_VALUE` against 70_reset_and_hazards.md R204 (00_scope.md R10) -/
  | powerDownByte
  /-- boot step 3 with an `RF_SETUP_VALUE` against 70_reset_and_hazards.md R206 (00_scope.md R10) -/
  | rfSetupByte
  /-- boot step 10 with a `CFG_PU_VALUE` against 70_reset_and_hazards.md R213 (00_scope.md R10) -/
  | powerUpByte
  deriving DecidableEq, Repr

/-- What the outside presents to the block (INVENTORY.md, Host interface). -/
inductive Input where
  /-- nothing arrives during this step -/
  | quiet
  /-- the reset event (70_reset_and_hazards.md R200) -/
  | reset
  /-- a request, carried out as one action (40_register_access.md R110, R115) -/
  | call (i : Instr)
  /-- the same request, carried out in the small steps S1 to S4 (R111 to R114) -/
  | start (i : Instr)
  /-- the requester itself calls `delayMicroseconds` (70_reset_and_hazards.md R214) -/
  | delay (us : Nat)
  /-- the requester's program goes on where the spec predicts nothing -/
  | unpredicted (u : Unpredicted)
  deriving DecidableEq, Repr

/-- "The block raises no synchronous exception" and "there is no `fault` outcome" (60_exceptions.md R180,
00_scope.md R10): no one raises a fault, so the type has no constructor. -/
inductive Fault where
  deriving DecidableEq, Repr

/-- A parameter an operation uses outside the range it is defined on (00_scope.md R10). -/
inductive OutOfRange where
  /-- any frame: `LEN_MAX` below `max(5, PAYLOAD_LEN)` (00_scope.md table P2) -/
  | lenMax
  /-- LDTX: `PAYLOAD_LEN` not 1 to 32 (00_scope.md table P1) -/
  | payloadLen
  /-- CLRIRQ: `IRQ_CLEAR_MASK` is not the byte of 30_encoding.md R92 -/
  | irqClearMask
  /-- TXDRAIN: `BIT_TX_EMPTY` is no bit number of a byte (00_scope.md R7) -/
  | bitTxEmpty
  /-- TXDRAIN: `BIT_MAX_RT` is no bit number of a byte (00_scope.md R7) -/
  | bitMaxRt
  deriving DecidableEq, Repr

/-- Why the spec gives a request no meaning (00_scope.md R10, outcome `refuse`). -/
inductive Refusal where
  /-- `exec`'s arm of an instruction that has no meaning yet; safe. No arm does at present. -/
  | notModelled (mnemonic : String)
  /-- RDREG, RDBUF, WRREG, WRBUF (and RXPIPE, CLRIRQ, TXDRAIN when the configuration names such a register): the
  address is outside REG_ADDR_MASK, "the model refuses the request" (30_encoding.md R86; U1); safe -/
  | malformedAddress (addr : Byte)
  /-- any frame: more data exchanges than LEN_MAX, "n > LEN_MAX is refused" (40_register_access.md R110); safe -/
  | lengthOverLimit (n : Nat)
  /-- LDTX: "len(w) other than PAYLOAD_LEN is refused by the model" (41_fifo_sequencer.md R130); safe -/
  | payloadLength (n : Nat)
  /-- any request presented to `exec` while an operation is in progress: "the spec gives such a run no meaning"
  (70_reset_and_hazards.md R219; U14, "a model that wants to be safe marks such a run refuse"); safe -/
  | requestWhileBusy
  /-- every operation but TXPULSE: "a parameter is used outside the range it is defined on" (00_scope.md R10); safe -/
  | parameterOutOfRange (p : OutOfRange)
  /-- the boot program from the step on that the spec does not predict (70_reset_and_hazards.md R207, R209; 00_scope.md
  R10); safe -/
  | bootUnpredicted (u : Unpredicted)
  /-- a small step in a state whose latches contradict 10_state.md R34; no reachable state has one; safe -/
  | latchesOutOfRange
  deriving DecidableEq, Repr

/-- The state. The first ten fields are exactly the block's state (10_state.md R20, table S1). -/
structure State where
  /-- `CSN`, the chip-select line as driven; low is asserted (R21). -/
  csn : Level
  /-- `CE`, the chip-enable line as driven; high is asserted (R22). -/
  ce : Level
  /-- `PHASE` (R23). -/
  phase : Phase
  /-- `OPK` (R24). -/
  opk : FrameKind
  /-- `CMD`, the command byte of the frame (R24). -/
  cmd : Byte
  /-- `LEN`, the number of data exchanges of the frame (R24). -/
  len : Nat
  /-- `IDX`, the number of data exchanges done (R24). -/
  idx : Nat
  /-- `WBUF`, the bytes to send (R25). -/
  wbuf : List Byte
  /-- `RBUF`, the bytes received (R25). -/
  rbuf : List Byte
  /-- `STAT`, the byte received during the command exchange (R26). -/
  stat : Byte
  /-- Which operation is in progress, and where it is. -/
  activity : Activity
  /-- The event trace, oldest first (00_scope.md R9). -/
  trace : List Event
  /-- The results returned, oldest first (00_scope.md R9). -/
  results : List Result
  /-- What the outside presents, next first (30_encoding.md R93, 20_memory.md R64). -/
  inputs : List Input
  /-- The target at the far end of the transport (20_memory.md R70, R71). -/
  target : Target
  /-- How many free values have been drawn; the model's own counter, log entry 3. -/
  draws : Nat
  /-- The configuration record `P` (00_scope.md R5, R6): read by the step, written by none. -/
  params : Params
  deriving DecidableEq, Repr

/-- The machine after reset under the configuration `P`: `CSN = 1`, `CE = 0`, `PHASE = IDLE`
(10_state.md R33, 70_reset_and_hazards.md R200). DESIGN CHOICE, log entry 7, unsafe: the latches R33 leaves
unspecified hold the values named here. DESIGN CHOICE, log entries 3 and 4: the target is an oracle with no script, no
value drawn. -/
def State.resetWith (P : Params) : State where
  csn := .high
  ce := .low
  phase := .idle
  opk := .fc
  cmd := 0
  len := 0
  idx := 0
  wbuf := []
  rbuf := []
  stat := 0
  activity := .idle
  trace := []
  results := []
  inputs := []
  target := .oracle []
  draws := 0
  params := P

/-- The machine right after reset, under the default configuration. -/
def State.reset : State := State.resetWith defaultParams

end Sys2Proof.Machine
end

