-- ==== Sys2Proof/Machine/Boot.lean ====
section
/-! DEFINITION. The boot program (70_reset_and_hazards.md R203 to R214), the source's Configuration Sequencer: a
program run on the block, as a list of inputs; "it makes no read of the target, takes no decision on anything the
target answers". -/

namespace Sys2Proof.Machine

/-- The pipe address table: `A[0]` and `A[1]` (R209). -/
def pipeAddress (devNum : Nat) : List Byte :=
  if devNum = 0 then [0x0F, 0xB3, 0x47, 0x17, 0x1C] else [0xD7, 0x1C, 0xCA, 0x3B, 0x8A]

/-- `WRREG reg, b`. -/
def wr (reg b : Byte) : Input := .call (.wrreg reg b)

/-- The retry delay field: "10 for device number 0 and for any nonzero device number a value of 0" (R205). -/
def ardOf (devNum : Nat) : Byte := if devNum = 0 then 10 else 0

/-- `(ARD << 4) | MAX_RETRY` (R203, R205). -/
def retrByte (P : Params) : Byte := (ardOf P.devNum <<< 4) ||| BitVec.ofNat 8 P.maxRetry

/-- Step 1 (R204). A `CFG_PD_VALUE` against the constraint of R204 is "a parameter used outside the range it is defined
on" (00_scope.md R10). -/
def bootStep1 (P : Params) : List Input :=
  [if PowerDownLegal P then wr P.regConfig P.cfgPdValue else .unpredicted .powerDownByte]

/-- Step 2 (R205). A retry count that does not fit its 4-bit field is "a parameter used outside the range it is
defined on" (00_scope.md R10, table P1). -/
def bootStep2 (P : Params) : List Input :=
  if P.autoAck then
    match P.role with
    | .master => [wr P.regEnAa 0x03, wr P.regSetupRetr 0x00]
    | .slave =>
      wr P.regEnAa 0x01 ::
        [if RetryLegal P then wr P.regSetupRetr (retrByte P) else .unpredicted .retryCount]
  else [wr P.regEnAa 0x00, wr P.regSetupRetr 0x00]

/-- The features decided in step 2: `FEAT` (R205, R211). -/
def bootFeatures (P : Params) : Byte := if P.autoAck then 0x00 else 0x01

/-- Step 3 (R206): "fixed channel 2", and an `RF_SETUP_VALUE` inside its constraints (00_scope.md R10). -/
def bootStep3 (P : Params) : List Input :=
  [wr P.regRfCh 0x02, if RfSetupLegal P then wr P.regRfSetup P.rfSetupValue else .unpredicted .rfSetupByte]

/-- Step 4 (R207): no event at all for an illegal width. -/
def bootStep4 (P : Params) : List Input :=
  if WidthLegal P then [wr P.regSetupAw (BitVec.ofNat 8 (P.addrWidth - 2))] else []

/-- Step 5 (R208). -/
def bootStep5 : List Input := [.call .clrirq]

/-- Step 6 of a master (R209). -/
def bootStep6Master (P : Params) : List Input :=
  [wr P.regEnRxaddr 0x03,
   .call (.wrbuf P.regRxAddrP0 ((pipeAddress 0).take P.addrWidth)),
   .call (.wrbuf P.regRxAddrP1 ((pipeAddress 1).take P.addrWidth))] ++
  (if PayloadLenLegal P then
    [wr P.regRxPwP0 (BitVec.ofNat 8 P.payloadLen), wr P.regRxPwP1 (BitVec.ofNat 8 P.payloadLen)]
   else [.unpredicted .payloadWidth]) ++
  [.call (.wrbuf P.regTxAddr (List.replicate P.addrWidth 0x00))]

/-- Step 6 of a slave (R209); no table entry for a device number other than 0 or 1 (U9). -/
def bootStep6Slave (P : Params) : List Input :=
  if P.devNum ≤ 1 then
    [wr P.regEnRxaddr 0x01,
     .call (.wrbuf P.regRxAddrP0 ((pipeAddress P.devNum).take P.addrWidth)),
     .call (.wrbuf P.regTxAddr ((pipeAddress P.devNum).take P.addrWidth)),
     wr P.regRxPwP0 0x00]
  else [.unpredicted .deviceNumber]

/-- Step 6 (R207, R209): with an illegal width "the model refuses the boot program from step 6 on". -/
def bootStep6 (P : Params) : List Input :=
  if WidthLegal P then
    match P.role with
    | .master => bootStep6Master P
    | .slave => bootStep6Slave P
  else [.unpredicted .addressWidth]

/-- Step 7 (R210). -/
def bootStep7 (P : Params) : List Input := [wr P.regDynpd 0x00]

/-- Step 8 (R211). -/
def bootStep8 (P : Params) : List Input := [wr P.regFeature (bootFeatures P)]

/-- Step 9 (R212). -/
def bootStep9 : List Input := [.call .fltx, .call .flrx]

/-- Step 10 (R213), with a `CFG_PU_VALUE` inside its constraints (00_scope.md R10). -/
def bootStep10 (P : Params) : List Input :=
  [if PowerUpLegal P then wr P.regConfig P.cfgPuValue else .unpredicted .powerUpByte]

/-- Step 11 (R214): the requester's own delay. -/
def bootStep11 (P : Params) : List Input := [.delay P.tSettleUs]

/-- The boot program (R203), in the required order of its eleven steps. -/
def bootProgram (P : Params) : List Input :=
  bootStep1 P ++ bootStep2 P ++ bootStep3 P ++ bootStep4 P ++ bootStep5 ++ bootStep6 P ++
    bootStep7 P ++ bootStep8 P ++ bootStep9 ++ bootStep10 P ++ bootStep11 P

end Sys2Proof.Machine
end

