-- ==== Sys2Proof/Machine/Ops.lean ====
section
/-! DEFINITION. The named operations over the state: the four transport primitives (20_memory.md R50), the frame
engine's small steps (40_register_access.md R111 to R114) and the frame as one action (R110), how an operation is
accepted and carried out, and the reset event (70_reset_and_hazards.md R200). The block takes no exception and returns
from none (60_exceptions.md R180, R185, R186): the reset event is the only early end of an operation. -/

namespace Sys2Proof.Machine

/-- Appends one event to the trace (00_scope.md R9). -/
def State.emit (s : State) (e : Event) : State := { s with trace := s.trace ++ [e] }

/-- `setChipSelect(0)`: `CSN <- 0`, event `CS(0)` (20_memory.md R50, R51). -/
def State.assertSelect (s : State) : State :=
  { s with csn := .low, target := s.target.select, trace := s.trace ++ [.cs .low] }

/-- `setChipSelect(1)`: `CSN <- 1`, event `CS(1)` (20_memory.md R50, R51). -/
def State.releaseSelect (s : State) : State :=
  { s with csn := .high, target := s.target.deselect s.params, trace := s.trace ++ [.cs .high] }

/-- `setChipEnable(level)`: `CE <- level`, event `CE(level)` (20_memory.md R50, R51). -/
def State.setEnable (s : State) (level : Level) : State :=
  { s with ce := level, trace := s.trace ++ [.ce level] }

/-- `delayMicroseconds(us)`: event `DLY(us)`, "the model keeps no time" (60_exceptions.md R188,
70_reset_and_hazards.md R225). -/
def State.delay (s : State) (us : Nat) : State := s.emit (.dly us)

/-- The byte that comes back when `out` is exchanged: the target's answer, a free value where it gives none
(20_memory.md R50, R70). -/
def State.received (s : State) (out : Byte) : Byte :=
  (s.target.exchange s.params out).1.getD (Config.draw s.draws)

/-- `exchangeByte(out)`: event `X(out, in)`; the free-value counter moves on when the target gave no answer
(20_memory.md R50, R70). -/
def State.exchanged (s : State) (out : Byte) : State :=
  { s with
    target := (s.target.exchange s.params out).2
    draws := if (s.target.exchange s.params out).1.isSome then s.draws else s.draws + 1
    trace := s.trace ++ [.x out (s.received out)] }

/-- Small step S1, accept (40_register_access.md R111). DESIGN CHOICE, log entry 29, safe: `WBUF`, "unused" in a read
frame (10_state.md R25) and not given by the spec in a bare command, is latched as the empty sequence there. -/
def State.accept (s : State) (r : FrameReq) : State :=
  { s.assertSelect with
    opk := r.kind, cmd := r.command, wbuf := r.data, len := r.len, idx := 0, rbuf := [], phase := .cmd }

/-- Small step S2, command exchange (40_register_access.md R112). -/
def State.commandExchange (s : State) : State :=
  { s.exchanged s.cmd with
    stat := s.received s.cmd
    phase := if 0 < s.len then .data else .fin }

/-- The byte a data exchange sends: `FILL` in a read frame, `WBUF[IDX]` in a write frame (40_register_access.md
R113). Beyond the end of `WBUF`, which R34 rules out, the small step refuses. -/
def State.dataOut (s : State) : Byte :=
  if s.opk = .fr then s.params.fill else s.wbuf.getD s.idx 0

/-- Small step S3, data exchange (40_register_access.md R113). -/
def State.dataExchange (s : State) : State :=
  { s.exchanged s.dataOut with
    rbuf := if s.opk = .fr then s.rbuf ++ [s.received s.dataOut] else s.rbuf
    idx := s.idx + 1
    phase := if s.idx + 1 = s.len then .fin else .data }

/-- Small step S4, end, but for the hand-over of the result (40_register_access.md R114). -/
def State.endFrame (s : State) : State := { s.releaseSelect with phase := .idle }

/-- `n` data exchanges one after another. -/
def State.dataExchanges : Nat → State → State
  | 0, s => s
  | n + 1, s => State.dataExchanges n s.dataExchange

/-- `Frame(k, c, w, n)` as one action (40_register_access.md R110, R115): one S1, one S2, `n` S3 and one S4. -/
def State.frame (s : State) (r : FrameReq) : State :=
  (State.dataExchanges r.len (s.accept r).commandExchange).endFrame

/-- The result an operation makes of `(STAT, RBUF)` (40_register_access.md R114, R116 to R120; 42_status_ops.md
R151, R152). A one-byte read has exactly one received byte. -/
def Return.value (ret : Return) (stat : Byte) (rbuf : List Byte) : Result :=
  match ret with
  | .dataByte => .byte (rbuf.headD 0)
  | .dataBytes => .bytes rbuf
  | .status => .status stat
  | .pipeOfData => .pipe (rxPipeOf (rbuf.headD 0))
  | .pipeOfStatus => .pipe (rxPipeOf stat)
  | .nothing => .nothing

/-- The operation in progress returns `v` to the requester (00_scope.md R10). -/
def State.finish (s : State) (v : Result) : State :=
  { s with activity := .idle, results := s.results ++ [v] }

/-- An operation is in progress, or a frame: no request is accepted (40_register_access.md R111,
60_exceptions.md R190). -/
def State.busy (s : State) : Bool := !decide (s.phase = .idle ∧ s.activity = .idle)

/-- The read of one register, as a frame request (40_register_access.md R116). DESIGN CHOICE, log entry 29, safe: where
the spec writes the data of a frame as `-` it is the empty sequence. -/
def readOne (P : Params) (addr : Byte) : FrameReq := ⟨.fr, cmdRead P addr, [], 1⟩

/-- What an operation does once it is accepted (30_encoding.md table E3, column emits). -/
inductive Plan where
  /-- one frame, and the result made of it -/
  | frame (r : FrameReq) (ret : Return)
  /-- TXPULSE's three events -/
  | pulse
  /-- TXDRAIN's events -/
  | drain
  deriving DecidableEq, Repr

/-- A one-frame operation: refused when `LEN_MAX`, which every frame reads, is outside its range (00_scope.md R10), and
when the frame is longer than `LEN_MAX` (40_register_access.md R110). -/
def framePlan (P : Params) (r : FrameReq) (ret : Return) : Except Refusal Plan :=
  if LengthLegal P r.len then .ok (.frame r ret)
  else .error (if LenMaxLegal P then .lengthOverLimit r.len else .parameterOutOfRange .lenMax)

/-- A one-frame operation on the register at `addr`: refused when the address is malformed (30_encoding.md R86). -/
def registerPlan (P : Params) (addr : Byte) (r : FrameReq) (ret : Return) : Except Refusal Plan :=
  if AddrLegal P addr then framePlan P r ret else .error (.malformedAddress addr)

/-- A one-frame operation as one action: the frame, then the result. -/
def State.runFrame (s : State) (r : FrameReq) (ret : Return) : State :=
  (s.frame r).finish (ret.value (s.frame r).stat (s.frame r).rbuf)

/-- TXPULSE as one action: `CEL(1); DLY(T_CE_HOLD_US); CEL(0)` (43_chip_enable_ops.md R161). -/
def State.runPulse (s : State) : State :=
  (((s.setEnable .high).delay s.params.tCeHoldUs).setEnable .low).finish .nothing

/-- The state after the first of a poll's two frames (43_chip_enable_ops.md R163). -/
def State.pollFifo (s : State) : State := s.frame (readOne s.params s.params.regFifoStatus)

/-- The state after one whole poll: both frames are always carried out (43_chip_enable_ops.md R163). -/
def State.poll (s : State) : State := s.pollFifo.frame (readOne s.params s.params.regStatus)

/-- TX FIFO empty, as the first frame of the poll showed it: `e` (43_chip_enable_ops.md R163). -/
def State.pollEmpty (s : State) : Bool := txEmptyOf s.params (s.pollFifo.rbuf.headD 0)

/-- Max retries reached, as the second frame of the poll showed it: `m` (43_chip_enable_ops.md R163). -/
def State.pollMaxRt (s : State) : Bool := maxRtOf s.params (s.poll.rbuf.headD 0)

/-- CE(0) and the end of TXDRAIN, which returns nothing (43_chip_enable_ops.md R162). -/
def State.endDrain (s : State) : State := (s.setEnable .low).finish .nothing

/-- TXDRAIN's start: `CEL(1); DLY(T_CE_HOLD_US)` (43_chip_enable_ops.md R162). -/
def State.raiseDrain (s : State) : State := (s.setEnable .high).delay s.params.tCeHoldUs

/-- TXDRAIN up to the exit test of its first poll: `until e = 1 or m = 1` (43_chip_enable_ops.md R162). If the test
fails the operation stays in progress and the following steps go on polling; it is never bounded (R164). -/
def State.runDrain (s : State) : State :=
  if s.raiseDrain.pollEmpty || s.raiseDrain.pollMaxRt then s.raiseDrain.poll.endDrain
  else { s.raiseDrain.poll with activity := .drain .readFifo }

/-- Carries out an operation as one action. A request while an operation is in progress has no meaning
(70_reset_and_hazards.md R219). -/
def State.execPlan (s : State) (p : Except Refusal Plan) : Host.Outcome State Fault Refusal :=
  if s.busy then .refused .requestWhileBusy
  else
    match p with
    | .error r => .refused r
    | .ok (.frame r ret) => .next (s.runFrame r ret)
    | .ok .pulse => .next s.runPulse
    | .ok .drain => .next s.runDrain

/-- Accepts an operation and does its first event only; the small steps do the rest. -/
def State.startPlan (s : State) (p : Except Refusal Plan) : Host.Outcome State Fault Refusal :=
  if s.busy then .refused .requestWhileBusy
  else
    match p with
    | .error r => .refused r
    | .ok (.frame r ret) => .next { s.accept r with activity := .frame ret }
    | .ok .pulse => .next { s.setEnable .high with activity := .pulse .raised }
    | .ok .drain => .next { s.setEnable .high with activity := .drain .raised }

/-- The reset event's line changes: "If CSN was 0 the trace gains CS(1); if CE was 1 it gains CE(0), the CS(1)
first" (70_reset_and_hazards.md R200). -/
def State.releaseLines (s : State) : State :=
  let s1 := if s.csn = .low then s.releaseSelect else s
  if s1.ce = .high then s1.setEnable .low else s1

/-- The reset event, in any state (70_reset_and_hazards.md R200, R201): the lines released, the block idle, no result.
DESIGN CHOICE, log entry 8, unsafe: the latches R200 leaves unspecified take the values of `State.resetWith`. -/
def State.resetEvent (s : State) : State :=
  { s.releaseLines with
    phase := .idle, activity := .idle,
    opk := .fc, cmd := 0, len := 0, idx := 0, wbuf := [], rbuf := [], stat := 0 }

end Sys2Proof.Machine
end

