-- ==== Sys2Proof/Machine/ChipEnable.lean ====
section
/-! DEFINITION. The chip-enable operations (43_chip_enable_ops.md R161, R162): TXPULSE, TXDRAIN. -/

namespace Sys2Proof.Machine

/-- TXPULSE has no operand and no frame (R161). -/
def planTxpulse : Except Refusal Plan := .ok .pulse

/-- TXDRAIN's polls read two registers (R163), each refused like any other read when its address is malformed
(30_encoding.md R86) or `LEN_MAX` outside its range, and test a bit of each byte read, refused when its number is no
byte's (00_scope.md R7, R10). -/
def planTxdrain (P : Params) : Except Refusal Plan :=
  if ¬AddrLegal P P.regFifoStatus then .error (.malformedAddress P.regFifoStatus)
  else if ¬AddrLegal P P.regStatus then .error (.malformedAddress P.regStatus)
  else if ¬LengthLegal P 1 then .error (.parameterOutOfRange .lenMax)
  else if ¬BitLegal P.bitTxEmpty then .error (.parameterOutOfRange .bitTxEmpty)
  else if ¬BitLegal P.bitMaxRt then .error (.parameterOutOfRange .bitMaxRt)
  else .ok .drain

/-- TXPULSE (R161). -/
def execTxpulse (s : State) : Host.Outcome State Fault Refusal := s.execPlan planTxpulse

/-- TXDRAIN (R162). -/
def execTxdrain (s : State) : Host.Outcome State Fault Refusal := s.execPlan (planTxdrain s.params)

end Sys2Proof.Machine
end

