-- ==== Sys2Proof/Machine/Fifo.lean ====
section
/-! DEFINITION. The FIFO read/write sequencer (41_fifo_sequencer.md R130 to R133): LDTX, RDRX, FLTX, FLRX. The
block keeps nothing of a payload (R134). -/

namespace Sys2Proof.Machine

/-- `Frame(FW, c, w, PAYLOAD_LEN); return s`, the command byte chosen by `AUTO_ACK`; another length is refused
(R130), and so is a `PAYLOAD_LEN` outside its range (00_scope.md R10). -/
def planLdtx (P : Params) (w : List Byte) : Except Refusal Plan :=
  if ¬PayloadLenLegal P then .error (.parameterOutOfRange .payloadLen)
  else if w.length = P.payloadLen then framePlan P ⟨.fw, cmdLoadPayload P, w, P.payloadLen⟩ .status
  else .error (.payloadLength w.length)

/-- `Frame(FR, CMD_R_RX_PAYLOAD, -, n); return r` (R131). -/
def planRdrx (P : Params) (n : Nat) : Except Refusal Plan :=
  framePlan P ⟨.fr, P.cmdRRxPayload, [], n⟩ .dataBytes

/-- `CMD(CMD_FLUSH_TX)` (R132). -/
def planFltx (P : Params) : Except Refusal Plan :=
  framePlan P ⟨.fc, P.cmdFlushTx, [], 0⟩ .status

/-- `CMD(CMD_FLUSH_RX)` (R133). -/
def planFlrx (P : Params) : Except Refusal Plan :=
  framePlan P ⟨.fc, P.cmdFlushRx, [], 0⟩ .status

/-- LDTX (R130). -/
def execLdtx (w : List Byte) (s : State) : Host.Outcome State Fault Refusal :=
  s.execPlan (planLdtx s.params w)

/-- RDRX (R131). -/
def execRdrx (n : Nat) (s : State) : Host.Outcome State Fault Refusal :=
  s.execPlan (planRdrx s.params n)

/-- FLTX (R132). -/
def execFltx (s : State) : Host.Outcome State Fault Refusal := s.execPlan (planFltx s.params)

/-- FLRX (R133). -/
def execFlrx (s : State) : Host.Outcome State Fault Refusal := s.execPlan (planFlrx s.params)

end Sys2Proof.Machine
end

