-- ==== Sys2Proof/Machine/RegisterAccess.lean ====
section
/-! DEFINITION. The five operations of the Register Access Layer (40_register_access.md R116 to R120): RDREG,
RDBUF, WRREG, WRBUF, CMD. Each is one frame; "Never fails (no error channel)". -/

namespace Sys2Proof.Machine

/-- `Frame(FR, cmdRead(addr), -, 1); return d` (R116). -/
def planRdreg (P : Params) (addr : Byte) : Except Refusal Plan :=
  registerPlan P addr ⟨.fr, cmdRead P addr, [], 1⟩ .dataByte

/-- `Frame(FR, cmdRead(addr), -, n); return r` (R117). -/
def planRdbuf (P : Params) (addr : Byte) (n : Nat) : Except Refusal Plan :=
  registerPlan P addr ⟨.fr, cmdRead P addr, [], n⟩ .dataBytes

/-- `Frame(FW, cmdWrite(addr), [b], 1); return s` (R118). -/
def planWrreg (P : Params) (addr b : Byte) : Except Refusal Plan :=
  registerPlan P addr ⟨.fw, cmdWrite P addr, [b], 1⟩ .status

/-- `Frame(FW, cmdWrite(addr), w, len(w)); return s` (R119). -/
def planWrbuf (P : Params) (addr : Byte) (w : List Byte) : Except Refusal Plan :=
  registerPlan P addr ⟨.fw, cmdWrite P addr, w, w.length⟩ .status

/-- `Frame(FC, op, -, 0); return s` (R120): "the opcode is not checked". -/
def planCmd (P : Params) (op : Byte) : Except Refusal Plan :=
  framePlan P ⟨.fc, op, [], 0⟩ .status

/-- RDREG (R116). -/
def execRdreg (addr : Byte) (s : State) : Host.Outcome State Fault Refusal :=
  s.execPlan (planRdreg s.params addr)

/-- RDBUF (R117). -/
def execRdbuf (addr : Byte) (n : Nat) (s : State) : Host.Outcome State Fault Refusal :=
  s.execPlan (planRdbuf s.params addr n)

/-- WRREG (R118). -/
def execWrreg (addr b : Byte) (s : State) : Host.Outcome State Fault Refusal :=
  s.execPlan (planWrreg s.params addr b)

/-- WRBUF (R119). -/
def execWrbuf (addr : Byte) (w : List Byte) (s : State) : Host.Outcome State Fault Refusal :=
  s.execPlan (planWrbuf s.params addr w)

/-- CMD (R120). -/
def execCmd (op : Byte) (s : State) : Host.Outcome State Fault Refusal :=
  s.execPlan (planCmd s.params op)

end Sys2Proof.Machine
end

