-- ==== Sys2Proof/Machine/StatusOps.lean ====
section
/-! DEFINITION. The status operations (42_status_ops.md R151, R152): RXPIPE, CLRIRQ. -/

namespace Sys2Proof.Machine

/-- With `ReadStatusReg`: `v <- RDREG(REG_STATUS); return rxPipeOf(v)`, "the result uses v, the byte of the data
exchange, not s"; with `NopCommand`: `s <- CMD(0xFF); return rxPipeOf(s)` (R151). -/
def planRxpipe (P : Params) : Except Refusal Plan :=
  match P.statusSource with
  | .readStatusReg => registerPlan P P.regStatus ⟨.fr, cmdRead P P.regStatus, [], 1⟩ .pipeOfData
  | .nopCommand => framePlan P ⟨.fc, cmdNop, [], 0⟩ .pipeOfStatus

/-- `_ <- WRREG(REG_STATUS, IRQ_CLEAR_MASK)` (R152); a mask that is not the byte of 30_encoding.md R92 is refused
(00_scope.md R10). -/
def planClrirq (P : Params) : Except Refusal Plan :=
  if IrqMaskLegal P then registerPlan P P.regStatus ⟨.fw, cmdWrite P P.regStatus, [P.irqClearMask], 1⟩ .nothing
  else .error (.parameterOutOfRange .irqClearMask)

/-- RXPIPE (R151). -/
def execRxpipe (s : State) : Host.Outcome State Fault Refusal := s.execPlan (planRxpipe s.params)

/-- CLRIRQ (R152). -/
def execClrirq (s : State) : Host.Outcome State Fault Refusal := s.execPlan (planClrirq s.params)

end Sys2Proof.Machine
end

