-- ==== Sys2Proof/Machine/Dispatch.lean ====
section
/-! DEFINITION. One arm per operation of 30_encoding.md table E3. -/

namespace Sys2Proof.Machine

def exec (i : Instr) (s : State) : Host.Outcome State Fault Refusal :=
  match i with
  | .rdreg addr => Sys2Proof.Machine.execRdreg addr s
  | .rdbuf addr n => Sys2Proof.Machine.execRdbuf addr n s
  | .wrreg addr b => Sys2Proof.Machine.execWrreg addr b s
  | .wrbuf addr w => Sys2Proof.Machine.execWrbuf addr w s
  | .cmd op => Sys2Proof.Machine.execCmd op s
  | .ldtx w => Sys2Proof.Machine.execLdtx w s
  | .rdrx n => Sys2Proof.Machine.execRdrx n s
  | .fltx => Sys2Proof.Machine.execFltx s
  | .flrx => Sys2Proof.Machine.execFlrx s
  | .rxpipe => Sys2Proof.Machine.execRxpipe s
  | .clrirq => Sys2Proof.Machine.execClrirq s
  | .txpulse => Sys2Proof.Machine.execTxpulse s
  | .txdrain => Sys2Proof.Machine.execTxdrain s

end Sys2Proof.Machine
end

