-- ==== Sys2Proof/Machine/Sequencer.lean ====
section
/-! DEFINITION. The small-step sequencer: an operation accepted with its first event, then S2, S3 and S4 of its
frames (40_register_access.md R111 to R114) and the events of TXPULSE and TXDRAIN one at a time
(43_chip_enable_ops.md R161 to R163). -/

namespace Sys2Proof.Machine

/-- What each operation does once accepted (30_encoding.md table E3). -/
def planOf (P : Params) (i : Instr) : Except Refusal Plan :=
  match i with
  | .rdreg addr => planRdreg P addr
  | .rdbuf addr n => planRdbuf P addr n
  | .wrreg addr b => planWrreg P addr b
  | .wrbuf addr w => planWrbuf P addr w
  | .cmd op => planCmd P op
  | .ldtx w => planLdtx P w
  | .rdrx n => planRdrx P n
  | .fltx => planFltx P
  | .flrx => planFlrx P
  | .rxpipe => planRxpipe P
  | .clrirq => planClrirq P
  | .txpulse => planTxpulse
  | .txdrain => planTxdrain P

/-- The request accepted with its first event only. -/
def State.startInstr (s : State) (i : Instr) : Host.Outcome State Fault Refusal :=
  s.startPlan (planOf s.params i)

/-- S4 hands `(STAT, RBUF)` "to the operation that asked for the frame" (40_register_access.md R114): a one-frame
operation returns, TXDRAIN goes on to its next read or to its exit test (43_chip_enable_ops.md R162, R163). -/
def State.handOver (s : State) : Host.Outcome State Fault Refusal :=
  match s.activity with
  | .frame ret => .next (s.finish (ret.value s.stat s.rbuf))
  | .drain .readFifo =>
    .next { s with activity := .drain (.readStatus (txEmptyOf s.params (s.rbuf.headD 0))) }
  | .drain (.readStatus e) =>
    .next { s with activity := .drain (if e || maxRtOf s.params (s.rbuf.headD 0) then .lower else .readFifo) }
  | .idle => .refused .latchesOutOfRange
  | .pulse _ => .refused .latchesOutOfRange
  | .drain .raised => .refused .latchesOutOfRange
  | .drain .lower => .refused .latchesOutOfRange

/-- S3 is enabled: "PHASE = DATA (which implies IDX < LEN)", and a write frame has a byte to send
(40_register_access.md R113). -/
def State.dataEnabled (s : State) : Bool :=
  decide (s.idx < s.len ∧ (s.opk = .fr ∨ (s.opk = .fw ∧ s.idx < s.wbuf.length)))

/-- The next event of TXPULSE or TXDRAIN outside a frame (43_chip_enable_ops.md R161 to R163). -/
def State.lineStep (s : State) : Host.Outcome State Fault Refusal :=
  match s.activity with
  | .idle => .next s
  | .frame _ => .refused .latchesOutOfRange
  | .pulse .raised => .next { s.delay s.params.tCeHoldUs with activity := .pulse .held }
  | .pulse .held => .next ((s.setEnable .low).finish .nothing)
  | .drain .raised => .next { s.delay s.params.tCeHoldUs with activity := .drain .readFifo }
  | .drain .readFifo => .next (s.accept (readOne s.params s.params.regFifoStatus))
  | .drain (.readStatus _) => .next (s.accept (readOne s.params s.params.regStatus))
  | .drain .lower => .next s.endDrain

/-- One small step of the operation in progress: S2, S3, S4 by `PHASE`, and between frames the next event of the
operation. An idle block does nothing. -/
def State.smallStep (s : State) : Host.Outcome State Fault Refusal :=
  match s.phase with
  | .idle => s.lineStep
  | .cmd => .next s.commandExchange
  | .data => if s.dataEnabled then .next s.dataExchange else .refused .latchesOutOfRange
  | .fin => s.endFrame.handOver

end Sys2Proof.Machine
end

