-- ==== Sys2Proof/Machine/Step.lean ====
section
/-! DEFINITION. One step: what the outside presents next is taken, and the block does one operation as one action,
or one small step of the operation in progress. The block fetches no instructions (10_state.md R28): the requester's
next call stands in the place of a fetched instruction. -/

namespace Sys2Proof.Machine

/-- One step. A reset is taken in any state (70_reset_and_hazards.md R200). A request, a delay of the requester or an
unpredicted step of its program waits while an operation is in progress: the requester "blocks until the operation
returns" (00_scope.md R2, 40_register_access.md R111). With nothing to do the block stays idle. -/
def step (s : State) : Host.Outcome State Fault Refusal :=
  match s.inputs with
  | .reset :: rest => .next { s with inputs := rest }.resetEvent
  | .quiet :: rest => { s with inputs := rest }.smallStep
  | [] => s.smallStep
  | .call i :: rest => if s.busy then s.smallStep else exec i { s with inputs := rest }
  | .start i :: rest => if s.busy then s.smallStep else { s with inputs := rest }.startInstr i
  | .delay us :: rest => if s.busy then s.smallStep else .next ({ s with inputs := rest }.delay us)
  | .unpredicted u :: _ => if s.busy then s.smallStep else .refused (.bootUnpredicted u)

/-- `s` with the operation the decoder reads from a row's word presented as the requester's next call, and the block
idle so that the call is accepted (log entry 15). A word no row has presents nothing. -/
def State.withFetchWord (s : State) (nbits w : Nat) : State :=
  match decodeTableWord nbits w with
  | some i =>
    { s with csn := .high, ce := .low, phase := .idle, activity := .idle, inputs := .call i :: s.inputs }
  | none => { s with csn := .high, ce := .low, phase := .idle, activity := .idle, inputs := [] }

end Sys2Proof.Machine
end

