-- ==== Sys2Proof/Safety.lean ====
section
/-! DEFINITION. What counts as a safe run: the invariants of 10_state.md R34 and the bracketing of the trace
(40_register_access.md R121, 43_chip_enable_ops.md R165). -/

namespace Sys2Proof.Machine

/-- The levels of the two lines, `(CSN, CE)`, after one event, when the event is allowed there: chip-select events
alternate, every exchange lies inside a bracket, no CE or DLY event does, chip-enable events alternate
(40_register_access.md R121 a; 43_chip_enable_ops.md R165 a, c; 10_state.md R34 e). -/
def scanEvent (lines : Level × Level) (e : Event) : Option (Level × Level) :=
  match lines, e with
  | (.high, ce), .cs .low => some (.low, ce)
  | (.low, ce), .cs .high => some (.high, ce)
  | (.low, ce), .x _ _ => some (.low, ce)
  | (.high, .low), .ce .high => some (.high, .high)
  | (.high, .high), .ce .low => some (.high, .low)
  | (.high, ce), .dly _ => some (.high, ce)
  | _, _ => none

/-- The levels of the lines after a whole trace, when every event of it is allowed where it stands. -/
def scan (lines : Level × Level) : List Event → Option (Level × Level)
  | [] => some lines
  | e :: rest =>
    match scanEvent lines e with
    | some lines' => scan lines' rest
    | none => none

/-- The trace since reset is well bracketed and ends with the lines as they are: "select-low always brackets exactly
one transceive sequence" (00_scope.md R9, 10_state.md R21). -/
def State.bracketed (s : State) : Prop := scan (.high, .low) s.trace = some (s.csn, s.ce)

/-- The latches agree with `PHASE` (10_state.md R34 a to d; 10_state.md R23; 40_register_access.md R113). -/
def State.latchesAgree (s : State) : Prop :=
  (s.phase = .idle ↔ s.csn = .high) ∧
  (s.phase ≠ .idle → s.idx ≤ s.len ∧ s.len ≤ s.params.lenMax) ∧
  (s.opk = .fc → s.len = 0) ∧
  (s.opk = .fr → s.rbuf.length = s.idx) ∧
  (s.phase = .cmd → s.idx = 0) ∧
  (s.phase = .data → s.idx < s.len) ∧
  (s.phase = .fin → s.idx = s.len) ∧
  (s.phase ≠ .idle → s.opk = .fw → s.wbuf.length = s.len)

/-- The operation in progress agrees with `PHASE` and `CE`: chip-enable is high exactly during TXPULSE and TXDRAIN
(10_state.md R22, 43_chip_enable_ops.md R160), a frame in progress belongs to an operation that has one, and TXDRAIN is in
progress only under a configuration it can poll with (00_scope.md R10). -/
def State.activityAgrees (s : State) : Prop :=
  match s.activity with
  | .idle => s.phase = .idle ∧ s.ce = .low
  | .frame _ => s.phase ≠ .idle ∧ s.ce = .low
  | .pulse _ => s.phase = .idle ∧ s.ce = .high
  | .drain .raised => s.phase = .idle ∧ s.ce = .high ∧ txdrainLegal s.params = true
  | .drain .lower => s.phase = .idle ∧ s.ce = .high ∧ txdrainLegal s.params = true
  | .drain .readFifo => s.ce = .high ∧ txdrainLegal s.params = true ∧ (s.phase ≠ .idle → s.opk = .fr ∧ s.len = 1)
  | .drain (.readStatus _) => s.ce = .high ∧ txdrainLegal s.params = true ∧ (s.phase ≠ .idle → s.opk = .fr ∧ s.len = 1)

/-- The invariant of every reachable state: 10_state.md R34 and the bracketing of the whole trace. -/
def State.Inv (s : State) : Prop :=
  s.latchesAgree ∧ s.activityAgrees ∧ s.bracketed ∧ s.target.wf = true

/-- The block is idle and can accept a request (10_state.md R23, 40_register_access.md R111). -/
abbrev State.Idle (s : State) : Prop := s.phase = .idle ∧ s.activity = .idle

/-- What the block drives: the trace less the bytes the target supplied (40_register_access.md R121 g). -/
inductive Driven where
  | cs (level : Level)
  | sent (out : Byte)
  | ce (level : Level)
  | dly (us : Nat)
  deriving DecidableEq, Repr

/-- The event less what the target supplied. -/
def drivenOf : Event → Driven
  | .cs l => .cs l
  | .x out _ => .sent out
  | .ce l => .ce l
  | .dly us => .dly us

/-- A read or write frame's events: `CS(0) X(c, st)`, the data exchanges, `CS(1)` (30_encoding.md R80). -/
def frameEvents (c st : Byte) (exchanges : List (Byte × Byte)) : List Event :=
  [.cs .low, .x c st] ++ exchanges.map (fun p => .x p.1 p.2) ++ [.cs .high]

/-- The bytes a frame sends after its command byte: `FILL^n`, the data, or none (30_encoding.md R81 to R83). -/
def sentData (P : Params) (r : FrameReq) : List Byte :=
  match r.kind with
  | .fr => fillBytes P r.len
  | .fw => r.data
  | .fc => []

/-- A frame request has the shape of its format: for FW `len(w) = n`, for FC `n = 0` and there is no data (40_register_access.md
R110). -/
def FrameReq.shaped (r : FrameReq) : Prop :=
  (r.kind = .fw → r.data.length = r.len) ∧ (r.kind = .fc → r.len = 0 ∧ r.data = [])

/-- The state after the frame `r` in which the target answered `st` to the command byte and `ins` to the data
exchanges: the lines and latches as R110 to R114 leave them, the frame's events, and every other field as it was. What
the frame leaves of the target and of the free-value counter is `tgt` and `dr`. DESIGN CHOICE, log entry 29, safe: after a
frame that sends no data of the requester `WBUF` is the empty sequence. -/
def frameDone (s : State) (r : FrameReq) (st : Byte) (ins : List Byte) (tgt : Target) (dr : Nat) : State :=
  { s with
    csn := .high, phase := .idle,
    opk := r.kind, cmd := r.command, len := r.len, idx := r.len, wbuf := r.data,
    rbuf := if r.kind = .fr then ins else [],
    stat := st,
    trace := s.trace ++ frameEvents r.command st (List.zip (sentData s.params r) ins),
    target := tgt, draws := dr }

/-- The state after a one-frame operation that returned `v`: `frameDone` and the result. -/
def frameNext (s : State) (r : FrameReq) (st : Byte) (ins : List Byte) (v : Result) (tgt : Target) (dr : Nat) : State :=
  { frameDone s r st ins tgt dr with activity := .idle, results := s.results ++ [v] }

/-- `exec i s` carries out the one frame `r` and returns `v` of what the target answered, the first answer and the
others: for every target some answers, and for every sequence of answers a target gives exactly these
(40_register_access.md R110, 20_memory.md R70). -/
def RunsFrame (i : Instr) (s : State) (r : FrameReq) (v : Byte → List Byte → Result) : Prop :=
  (∃ st ins tgt dr, ins.length = r.len ∧ exec i s = .next (frameNext s r st ins (v st ins) tgt dr)) ∧
  ∀ st ins rest, ins.length = r.len → s.target = .oracle (st :: ins ++ rest) →
    exec i s = .next (frameNext s r st ins (v st ins) (.oracle rest) s.draws)

/-- The events of one poll of TXDRAIN that read `f` and then `v`, the status bytes being `st1`, `st2`
(43_chip_enable_ops.md R163). -/
def pollEvents (P : Params) (st1 f st2 v : Byte) : List Event :=
  frameEvents (cmdRead P P.regFifoStatus) st1 [(P.fill, f)] ++ frameEvents (cmdRead P P.regStatus) st2 [(P.fill, v)]

/-- What a target answers to the four exchanges of one poll (43_chip_enable_ops.md R163): the status byte and the byte `f` of
the read of the FIFO status register, the status byte and the byte `v` of the read of the status register. -/
structure PollAnswers where
  st1 : Byte
  fifo : Byte
  st2 : Byte
  status : Byte
  deriving DecidableEq, Repr

/-- The answers in the order the poll asks for them. -/
def PollAnswers.script (p : PollAnswers) : List Byte := [p.st1, p.fifo, p.st2, p.status]

/-- The exit test of TXDRAIN: `e = 1 or m = 1` (43_chip_enable_ops.md R162, R163). -/
def exitTest (P : Params) (f v : Byte) : Bool := txEmptyOf P f || maxRtOf P v

/-- The state after one whole poll that read `f` and then `v`: the frame latches hold the second frame. -/
def pollDone (s : State) (st1 f st2 v : Byte) (tgt : Target) (dr : Nat) : State :=
  { s with
    csn := .high, phase := .idle,
    opk := .fr, cmd := cmdRead s.params s.params.regStatus, len := 1, idx := 1, wbuf := [], rbuf := [v], stat := st2,
    activity := .drain (if exitTest s.params f v then .lower else .readFifo),
    trace := s.trace ++ pollEvents s.params st1 f st2 v,
    target := tgt, draws := dr }

/-- The state after `exec .txdrain`: CE(1), the hold time, one poll, and CE(0) and the return if the exit test holds;
if not, the operation is still in progress with chip-enable high (43_chip_enable_ops.md R162). -/
def drainNext (s : State) (st1 f st2 v : Byte) (tgt : Target) (dr : Nat) : State :=
  let leaves := exitTest s.params f v
  { s with
    csn := .high, phase := .idle, ce := if leaves then .low else .high,
    opk := .fr, cmd := cmdRead s.params s.params.regStatus, len := 1, idx := 1, wbuf := [], rbuf := [v], stat := st2,
    activity := if leaves then .idle else .drain .readFifo,
    trace := s.trace ++ [.ce .high, .dly s.params.tCeHoldUs] ++ pollEvents s.params st1 f st2 v ++
      (if leaves then [.ce .low] else []),
    results := s.results ++ (if leaves then [.nothing] else []),
    target := tgt, draws := dr }

/-- Steps one after another, stopping at the first refusal. -/
def steps : Nat → State → Host.Outcome State Fault Refusal
  | 0, s => .next s
  | k + 1, s =>
    match step s with
    | .next t => steps k t
    | .fault r => .fault r
    | .refused r => .refused r

/-- What stands next in the inputs waits while an operation is in progress: no reset arrives and no quiet step is
counted. -/
def waits : List Input → Bool
  | .reset :: _ => false
  | .quiet :: _ => false
  | _ => true

/-- How many steps an operation takes when it is carried out in small steps: `n + 3` for a frame of `n` data exchanges
(40_register_access.md R115), three events for TXPULSE (43_chip_enable_ops.md R161); for TXDRAIN, up to the exit test of
its first poll: CE(1), DLY and two frames of one data exchange. -/
def smallSteps (P : Params) : Instr → Nat
  | .rdreg _ => 4
  | .rdbuf _ n => n + 3
  | .wrreg _ _ => 4
  | .wrbuf _ w => w.length + 3
  | .cmd _ => 3
  | .ldtx w => w.length + 3
  | .rdrx n => n + 3
  | .fltx => 3
  | .flrx => 3
  | .rxpipe => match P.statusSource with
    | .readStatusReg => 4
    | .nopCommand => 3
  | .clrirq => 4
  | .txpulse => 3
  | .txdrain => 10

/-- What the block drives for one frame that sends these bytes (30_encoding.md R80). -/
def drivenFrame (bytes : List Byte) : List Driven := [.cs .low] ++ bytes.map .sent ++ [.cs .high]

/-- What the block drives for a bus word (30_encoding.md table E3): its frames, inside CE(1) DLY and CE(0) for a
chip-enable operation. -/
def drivenWord (P : Params) (b : BusWord) : List Driven :=
  if b.chipEnable then [.ce .high, .dly P.tCeHoldUs] ++ b.frames.flatMap drivenFrame ++ [.ce .low]
  else b.frames.flatMap drivenFrame

/-- What the block drives for one item of the requester's program. -/
def drivenInput (P : Params) : Input → List Driven
  | .call i => drivenWord P (encode P i)
  | .start i => drivenWord P (encode P i)
  | .delay us => [.dly us]
  | .quiet => []
  | .reset => []
  | .unpredicted _ => []

/-- The operations whose frame no other operation of a more specific row sends (30_encoding.md R94, R95): the
decoder reads each of them back from its bus word. -/
def unambiguous (P : Params) : Instr → Bool
  | .rdreg addr => decide (addr ≠ P.regStatus ∨ P.statusSource = .nopCommand)
  | .rdbuf _ n => decide (n ≠ 1)
  | .wrreg addr b => decide (addr ≠ P.regStatus ∨ b ≠ P.irqClearMask)
  | .wrbuf _ w => decide (w.length ≠ 1)
  | .cmd op => decide (¬IsCmdRead P op ∧ ¬IsCmdWrite P op ∧ op ≠ P.cmdRRxPayload ∧ op ≠ P.cmdFlushTx ∧
      op ≠ P.cmdFlushRx ∧ (op = cmdLoadPayload P → P.payloadLen ≠ 0) ∧ (op = cmdNop → P.statusSource = .readStatusReg))
  | .ldtx _ => true
  | .rdrx _ => true
  | .fltx => true
  | .flrx => true
  | .rxpipe => true
  | .clrirq => true
  | .txpulse => true
  | .txdrain => true

end Sys2Proof.Machine
end

