-- ==== Sys2Proof/Certificates/Slice0/Obligations.lean ====
section
/-! DEFINITION. The statements for the provers, in the order of OBLIGATIONS.json. Nothing is proved here. -/

open Sys2Proof Sys2Proof.Machine

/-! ## Reset and the invariants -/

/-- 10_state.md R33 and 70_reset_and_hazards.md R200: under every configuration the block starts with chip-select and
chip-enable deasserted and no frame in progress. The values of the other latches are the model's (log entry 7) and are
not stated. -/
def Obligations.ResetReleasesTheLines : Prop :=
  ∀ P : Params, (State.resetWith P).csn = .high ∧ (State.resetWith P).ce = .low ∧ (State.resetWith P).phase = .idle

/-- The invariant holds at reset, under every configuration. That R34 (c) and (d), which it holds of idle states too, are true
at reset rests on the latch values of log entry 7, the model's choice (10_state.md R33 leaves them unspecified); the canonical
form of the reference target's register map speaks of log entry 21's map. -/
def Obligations.ResetMeetsTheInvariants : Prop :=
  State.reset.Inv ∧ ∀ P : Params, (State.resetWith P).Inv

/-- 10_state.md R34, 40_register_access.md R121 (a), 43_chip_enable_ops.md R165 (a), (c): every step keeps the latch
relations, the bracketing of the whole trace and the canonical form of the reference target's register map. That map and its
form are the model's choice (log entry 21); that R34 (c) and (d) hold right after a reset rests on the latch values the
model gives there (log entry 8, the model's choice too). -/
def Obligations.EveryStepKeepsTheInvariants : Prop :=
  ∀ s t : State, s.Inv → step s = .next t → t.Inv

/-- 10_state.md R34, (a) to (e): whatever the configuration, the inputs and the target, every state a run from reset
reaches has the five relations. For (e): a step from a state with a frame in progress that is not a reset leaves `CE`; the
exception is 70_reset_and_hazards.md R200's. That (c) and (d) hold in idle states at and after reset rests on the latch
values the model gives there (log entries 7 and 8, the model's choice). -/
def Obligations.ReachableStatesObeyTheLatchRelations : Prop :=
  ∀ (P : Params) (inputs : List Input) (target : Target) (k : Nat) (s : State), target.wf = true →
    steps k { State.resetWith P with inputs := inputs, target := target } = .next s →
    (s.phase = .idle ↔ s.csn = .high) ∧
    (s.phase ≠ .idle → s.idx ≤ s.len ∧ s.len ≤ s.params.lenMax) ∧
    (s.opk = .fc → s.len = 0) ∧
    (s.opk = .fr → s.rbuf.length = s.idx) ∧
    (∀ t, s.phase ≠ .idle → s.inputs.head? ≠ some .reset → step s = .next t → t.ce = s.ce)

/-- 40_register_access.md R115, "No step of the frame engine waits on the target, so a frame always completes": under
the invariant an operation in progress always has its next small step. -/
def Obligations.BusyBlockAlwaysHasAStep : Prop :=
  ∀ s : State, s.Inv → s.busy = true → ∃ t, s.smallStep = .next t

/-- 70_reset_and_hazards.md R200, R201: the reset event is taken in every state; the trace gains CS(1) exactly if CSN was
0, then CE(0) exactly if CE was 1; both lines are released, no frame and no operation is in progress, no result is
returned; the requester's further inputs and the configuration are kept; and with chip-select high the target sees
nothing. -/
def Obligations.ResetEventReleasesTheLines : Prop :=
  ∀ (s : State) (rest : List Input), s.inputs = .reset :: rest →
    ∃ t, step s = .next t ∧
      t.trace = s.trace ++ (if s.csn = .low then [.cs .high] else []) ++ (if s.ce = .high then [.ce .low] else []) ∧
      t.csn = .high ∧ t.ce = .low ∧ t.phase = .idle ∧ t.activity = .idle ∧
      t.results = s.results ∧ t.inputs = rest ∧ t.params = s.params ∧ t.draws = s.draws ∧
      (s.csn = .high → t.target = s.target)

/-- 10_state.md R20, R33: the latches "have no meaning while the block is idle": two idle states that differ only in
OPK, CMD, LEN, IDX, WBUF, RBUF and STAT answer every request alike, with the same trace, results, lines and target. -/
def Obligations.IdleLatchesAreDead : Prop :=
  ∀ (s : State) (i : Instr) (k : FrameKind) (c st : Byte) (n j : Nat) (w r : List Byte), s.Idle →
    let s' := { s with opk := k, cmd := c, len := n, idx := j, wbuf := w, rbuf := r, stat := st }
    (∀ t, exec i s = .next t → ∃ t', exec i s' = .next t' ∧ t'.trace = t.trace ∧ t'.results = t.results ∧
      t'.csn = t.csn ∧ t'.ce = t.ce ∧ t'.phase = t.phase ∧ t'.activity = t.activity ∧ t'.target = t.target ∧
      t'.draws = t.draws) ∧
    (∀ e, exec i s = .refused e → exec i s' = .refused e)

/-! ## The step -/

/-- 20_memory.md R64, 30_encoding.md R93: an idle block takes the requester's next call and the step is `exec` of it,
with that call taken from the inputs; a call in small steps is accepted with its first event; and the operation the
decoder reads from a table word runs in the very next step of `withFetchWord`. -/
def Obligations.StepRunsTheNextRequest : Prop :=
  (∀ (s : State) (i : Instr) (rest : List Input), s.Idle → s.inputs = .call i :: rest →
    step s = exec i { s with inputs := rest }) ∧
  (∀ (s : State) (i : Instr) (rest : List Input), s.Idle → s.inputs = .start i :: rest →
    step s = ({ s with inputs := rest } : State).startInstr i) ∧
  (∀ (s : State) (nbits w : Nat) (i : Instr), decodeTableWord nbits w = some i →
    step (s.withFetchWord nbits w) =
      exec i { s with csn := .high, ce := .low, phase := .idle, activity := .idle })

/-- 40_register_access.md R111, 60_exceptions.md R190: while an operation is in progress no request is accepted. HOW is the
model's choice, log entry 10, among those 93_implementation_defined.md U14 allows: a request presented to `exec` is refused
as `requestWhileBusy`, and a step leaves the waiting inputs as they are. -/
def Obligations.NoRequestIsAcceptedWhileBusy : Prop :=
  ∀ s : State, s.busy = true →
    (∀ i, exec i s = .refused .requestWhileBusy) ∧
    (∀ t, waits s.inputs = true → step s = .next t → t.inputs = s.inputs)

/-- 00_scope.md R5, R9: no step changes the configuration, and every step only appends to the trace and to the
results. -/
def Obligations.StepsOnlyAppendAndKeepTheConfiguration : Prop :=
  ∀ s t : State, step s = .next t →
    t.params = s.params ∧ (∃ more, t.trace = s.trace ++ more) ∧ (∃ more, t.results = s.results ++ more)

/-- 00_scope.md R10, 30_encoding.md R86, 20_memory.md R58, 41_fifo_sequencer.md R130: an idle block carries out exactly
the well-formed requests, those whose operands and whose parameters lie in their ranges, and 20_memory.md R70: whether it
does never depends on the target. Which range a parameter is defined on is read from the tables (log entry 28). -/
def Obligations.ExactlyTheWellFormedRequestsRun : Prop :=
  ∀ (s : State) (i : Instr), s.Idle → ((∃ t, exec i s = .next t) ↔ wellFormed s.params i = true)

/-- 00_scope.md R10: "a parameter is used outside the range it is defined on" refuses the operation that uses it, by the
parameter's name: `LEN_MAX` below `max(5, PAYLOAD_LEN)` every operation with a frame, a `PAYLOAD_LEN` outside 1 to 32 LDTX,
an `IRQ_CLEAR_MASK` other than 30_encoding.md R92's CLRIRQ, a bit number of 8 or more (R7) TXDRAIN. What an operation checks
before the parameter must hold for that name to be given: each clause says so. TXPULSE uses none of them and runs. That the
operation which uses the parameter is the place of the refusal, in which order an operation checks, and which ranges are
meant, is the model's reading (log entry 28). -/
def Obligations.ParametersOutOfRangeAreRefused : Prop :=
  ∀ s : State, s.Idle →
    (¬LenMaxLegal s.params →
      (∀ op, exec (.cmd op) s = .refused (.parameterOutOfRange .lenMax)) ∧
      exec .fltx s = .refused (.parameterOutOfRange .lenMax) ∧ exec .flrx s = .refused (.parameterOutOfRange .lenMax) ∧
      (∀ n, exec (.rdrx n) s = .refused (.parameterOutOfRange .lenMax)) ∧
      (∀ addr, AddrLegal s.params addr →
        exec (.rdreg addr) s = .refused (.parameterOutOfRange .lenMax) ∧
        (∀ n, exec (.rdbuf addr n) s = .refused (.parameterOutOfRange .lenMax)) ∧
        (∀ b, exec (.wrreg addr b) s = .refused (.parameterOutOfRange .lenMax)) ∧
        ∀ w, exec (.wrbuf addr w) s = .refused (.parameterOutOfRange .lenMax)) ∧
      (PayloadLenLegal s.params → ∀ w : List Byte, w.length = s.params.payloadLen →
        exec (.ldtx w) s = .refused (.parameterOutOfRange .lenMax)) ∧
      (s.params.statusSource = .nopCommand ∨ AddrLegal s.params s.params.regStatus →
        exec .rxpipe s = .refused (.parameterOutOfRange .lenMax)) ∧
      (IrqMaskLegal s.params → AddrLegal s.params s.params.regStatus →
        exec .clrirq s = .refused (.parameterOutOfRange .lenMax)) ∧
      (AddrLegal s.params s.params.regFifoStatus → AddrLegal s.params s.params.regStatus →
        exec .txdrain s = .refused (.parameterOutOfRange .lenMax)) ∧
      ∀ i, i ≠ .txpulse → ∃ e, exec i s = .refused e) ∧
    (¬PayloadLenLegal s.params → ∀ w, exec (.ldtx w) s = .refused (.parameterOutOfRange .payloadLen)) ∧
    (¬IrqMaskLegal s.params → exec .clrirq s = .refused (.parameterOutOfRange .irqClearMask)) ∧
    (AddrLegal s.params s.params.regFifoStatus → AddrLegal s.params s.params.regStatus → LengthLegal s.params 1 →
      (¬BitLegal s.params.bitTxEmpty → exec .txdrain s = .refused (.parameterOutOfRange .bitTxEmpty)) ∧
      (BitLegal s.params.bitTxEmpty → ¬BitLegal s.params.bitMaxRt →
        exec .txdrain s = .refused (.parameterOutOfRange .bitMaxRt))) ∧
    (∃ t, exec .txpulse s = .next t)

/-! ## The register-access operations -/

/-- 40_register_access.md R116. That `WBUF` is empty after it is the model's choice (log entry 29). -/
def Obligations.RdregReturnsTheDataByte : Prop :=
  ∀ (s : State) (addr : Byte), s.Idle →
    (AddrLegal s.params addr → LengthLegal s.params 1 →
      RunsFrame (.rdreg addr) s ⟨.fr, cmdRead s.params addr, [], 1⟩ (fun _ ins => .byte (ins.headD 0))) ∧
    (¬AddrLegal s.params addr → exec (.rdreg addr) s = .refused (.malformedAddress addr))

/-- 40_register_access.md R117. That `WBUF` is empty after it is the model's choice (log entry 29). -/
def Obligations.RdbufReturnsTheDataBytes : Prop :=
  ∀ (s : State) (addr : Byte) (n : Nat), s.Idle →
    (AddrLegal s.params addr → LengthLegal s.params n →
      RunsFrame (.rdbuf addr n) s ⟨.fr, cmdRead s.params addr, [], n⟩ (fun _ ins => .bytes ins)) ∧
    (AddrLegal s.params addr → LenMaxLegal s.params → s.params.lenMax < n →
      exec (.rdbuf addr n) s = .refused (.lengthOverLimit n)) ∧
    (¬AddrLegal s.params addr → exec (.rdbuf addr n) s = .refused (.malformedAddress addr))

/-- 40_register_access.md R118. -/
def Obligations.WrregSendsOneByteAndReturnsTheStatus : Prop :=
  ∀ (s : State) (addr b : Byte), s.Idle →
    (AddrLegal s.params addr → LengthLegal s.params 1 →
      RunsFrame (.wrreg addr b) s ⟨.fw, cmdWrite s.params addr, [b], 1⟩ (fun st _ => .status st)) ∧
    (¬AddrLegal s.params addr → exec (.wrreg addr b) s = .refused (.malformedAddress addr))

/-- 40_register_access.md R119. -/
def Obligations.WrbufSendsTheBytesAndReturnsTheStatus : Prop :=
  ∀ (s : State) (addr : Byte) (w : List Byte), s.Idle →
    (AddrLegal s.params addr → LengthLegal s.params w.length →
      RunsFrame (.wrbuf addr w) s ⟨.fw, cmdWrite s.params addr, w, w.length⟩ (fun st _ => .status st)) ∧
    (AddrLegal s.params addr → LenMaxLegal s.params → s.params.lenMax < w.length →
      exec (.wrbuf addr w) s = .refused (.lengthOverLimit w.length)) ∧
    (¬AddrLegal s.params addr → exec (.wrbuf addr w) s = .refused (.malformedAddress addr))

/-- 40_register_access.md R120: for every one of the 256 opcodes. That `WBUF` is empty after it is the model's choice (log entry 29). -/
def Obligations.CmdSendsItsOpcodeAndReturnsTheStatus : Prop :=
  ∀ (s : State) (op : Byte), s.Idle → LengthLegal s.params 0 →
    RunsFrame (.cmd op) s ⟨.fc, op, [], 0⟩ (fun st _ => .status st)

/-! ## The FIFO sequencer -/

/-- 41_fifo_sequencer.md R130. -/
def Obligations.LdtxSendsThePayloadWithTheAckChoice : Prop :=
  ∀ (s : State) (w : List Byte), s.Idle →
    (PayloadLenLegal s.params → w.length = s.params.payloadLen → LengthLegal s.params w.length →
      RunsFrame (.ldtx w) s
        ⟨.fw, if s.params.autoAck = true then s.params.cmdWTxPayload else s.params.cmdWTxPayloadNoack, w,
          s.params.payloadLen⟩ (fun st _ => .status st)) ∧
    (PayloadLenLegal s.params → w.length ≠ s.params.payloadLen →
      exec (.ldtx w) s = .refused (.payloadLength w.length))

/-- 41_fifo_sequencer.md R131. That `WBUF` is empty after it is the model's choice (log entry 29). -/
def Obligations.RdrxReturnsThePayloadBytes : Prop :=
  ∀ (s : State) (n : Nat), s.Idle →
    (LengthLegal s.params n →
      RunsFrame (.rdrx n) s ⟨.fr, s.params.cmdRRxPayload, [], n⟩ (fun _ ins => .bytes ins)) ∧
    (LenMaxLegal s.params → s.params.lenMax < n → exec (.rdrx n) s = .refused (.lengthOverLimit n))

/-- 41_fifo_sequencer.md R132, R133. That `WBUF` is empty after it is the model's choice (log entry 29). -/
def Obligations.FlushesSendTheirCommandAlone : Prop :=
  ∀ s : State, s.Idle → LengthLegal s.params 0 →
    RunsFrame .fltx s ⟨.fc, s.params.cmdFlushTx, [], 0⟩ (fun st _ => .status st) ∧
    RunsFrame .flrx s ⟨.fc, s.params.cmdFlushRx, [], 0⟩ (fun st _ => .status st)

/-! ## The status operations -/

/-- 42_status_ops.md R150: `rxPipeOf(status) = (status >> 1) & 0b111 = status[3:1]`, for all 256 bytes. -/
def Obligations.RxPipeOfIsStatusBitsThreeToOne : Prop :=
  ∀ status : Byte, (rxPipeOf status).toNat = status.toNat / 2 % 8 ∧ rxPipeOf status = status.extractLsb' 1 3

/-- 42_status_ops.md R151, both status sources. That `WBUF` is empty after it is the model's choice (log entry 29). -/
def Obligations.RxpipeReturnsThePipeField : Prop :=
  ∀ s : State, s.Idle →
    (s.params.statusSource = .readStatusReg → AddrLegal s.params s.params.regStatus → LengthLegal s.params 1 →
      RunsFrame .rxpipe s ⟨.fr, cmdRead s.params s.params.regStatus, [], 1⟩
        (fun _ ins => .pipe (rxPipeOf (ins.headD 0)))) ∧
    (s.params.statusSource = .nopCommand → LengthLegal s.params 0 →
      RunsFrame .rxpipe s ⟨.fc, 0xFF, [], 0⟩ (fun st _ => .pipe (rxPipeOf st)))

/-- 42_status_ops.md R152 and 30_encoding.md R92: the byte written is `IRQ_CLEAR_MASK`, which is the three latched bits as
R92 gives it; the status byte is dropped. -/
def Obligations.ClrirqWritesTheLatchedBits : Prop :=
  ∀ s : State, s.Idle → AddrLegal s.params s.params.regStatus → LengthLegal s.params 1 → IrqMaskLegal s.params →
    s.params.irqClearMask = latchedBits s.params ∧
    RunsFrame .clrirq s ⟨.fw, cmdWrite s.params s.params.regStatus, [latchedBits s.params], 1⟩ (fun _ _ => .nothing)

/-- 30_encoding.md R94: the pseudo-operations and their expansions: FLTX and FLRX are `CMD` of their command byte, CLRIRQ
is `WRREG REG_STATUS, IRQ_CLEAR_MASK` with the result dropped, RXPIPE is `RDREG REG_STATUS` and then `rxPipeOf`;
42_status_ops.md R151: with the alternative status source it is `CMD 0xFF` and then `rxPipeOf`. State and trace are those of
the expansion (41_fifo_sequencer.md R132, R133; R151, R152). -/
def Obligations.PseudoOperationsExpand : Prop :=
  ∀ s : State, s.Idle →
    exec .fltx s = exec (.cmd s.params.cmdFlushTx) s ∧ exec .flrx s = exec (.cmd s.params.cmdFlushRx) s ∧
    (IrqMaskLegal s.params → ∀ t, exec (.wrreg s.params.regStatus s.params.irqClearMask) s = .next t →
      exec .clrirq s = .next { t with results := s.results ++ [.nothing] }) ∧
    (s.params.statusSource = .readStatusReg → ∀ t, exec (.rdreg s.params.regStatus) s = .next t →
      ∃ v, t.results = s.results ++ [.byte v] ∧
        exec .rxpipe s = .next { t with results := s.results ++ [.pipe (rxPipeOf v)] }) ∧
    (s.params.statusSource = .nopCommand → ∀ t, exec (.cmd 0xFF) s = .next t →
      ∃ v, t.results = s.results ++ [.status v] ∧
        exec .rxpipe s = .next { t with results := s.results ++ [.pipe (rxPipeOf v)] })

/-! ## The chip-enable operations -/

/-- 43_chip_enable_ops.md R161: the exact next state; every field not named is as it was. -/
def Obligations.TxpulsePulsesChipEnable : Prop :=
  ∀ s : State, s.Idle →
    exec .txpulse s = .next { s with
      ce := .low
      trace := s.trace ++ [.ce .high, .dly s.params.tCeHoldUs, .ce .low]
      results := s.results ++ [.nothing] }

/-- 43_chip_enable_ops.md R160, 10_state.md R22: only TXPULSE, TXDRAIN and a reset change `CE`: a step after which `CE`
differs took a reset, carried out or accepted one of the two, or is the CE(0) of the one in progress; and an operation
that has returned leaves `CE` low if it is one of the two, as it was if not. -/
def Obligations.OnlyChipEnableOperationsAndResetMoveCe : Prop :=
  (∀ s t : State, step s = .next t → t.ce ≠ s.ce →
    s.inputs.head? = some .reset ∨
    (s.busy = false ∧ ∃ i, (i = .txpulse ∨ i = .txdrain) ∧
      (s.inputs.head? = some (.call i) ∨ s.inputs.head? = some (.start i))) ∨
    (s.phase = .idle ∧ (s.activity = .pulse .held ∨ s.activity = .drain .lower))) ∧
  ∀ (s t : State) (i : Instr), exec i s = .next t → t.activity = .idle →
    t.ce = if i = .txpulse ∨ i = .txdrain then .low else s.ce

/-- 43_chip_enable_ops.md R162, R163: CE(1), the hold time, one whole poll, and on the exit test CE(0) and the return;
without it the operation goes on with chip-enable high. For every target some answers, and for every sequence of answers
a target gives exactly these. That one action makes one poll is the model's choice (log entry 12), and so is an empty `WBUF`
after it (log entry 29). -/
def Obligations.TxdrainRaisesPollsAndTests : Prop :=
  ∀ s : State, s.Idle → txdrainLegal s.params = true →
    (∃ st1 f st2 v tgt dr, exec .txdrain s = .next (drainNext s st1 f st2 v tgt dr)) ∧
    (∀ st1 f st2 v rest, s.target = .oracle (st1 :: f :: st2 :: v :: rest) →
      exec .txdrain s = .next (drainNext s st1 f st2 v (.oracle rest) s.draws))

/-- 43_chip_enable_ops.md R162, R163: while TXDRAIN polls, eight steps carry out one whole poll; the exit test is made
after it; if it holds the next step is CE(0) and the return. That `WBUF` is empty after it is the model's choice (log
entry 29). -/
def Obligations.DrainPollsUntilTheExitTest : Prop :=
  ∀ s : State, s.phase = .idle → s.activity = .drain .readFifo → waits s.inputs = true →
    (∃ st1 f st2 v tgt dr, steps 8 s = .next (pollDone s st1 f st2 v tgt dr)) ∧
    (∀ st1 f st2 v rest, s.target = .oracle (st1 :: f :: st2 :: v :: rest) →
      steps 8 s = .next (pollDone s st1 f st2 v (.oracle rest) s.draws)) ∧
    (∀ st1 f st2 v tgt dr, exitTest s.params f v = true →
      step (pollDone s st1 f st2 v tgt dr) = .next { pollDone s st1 f st2 v tgt dr with
        ce := .low, activity := .idle,
        trace := s.trace ++ pollEvents s.params st1 f st2 v ++ [.ce .low],
        results := s.results ++ [.nothing] })

/-- 43_chip_enable_ops.md R164, the hang: against a target that shows neither flag in any poll TXDRAIN never returns. For
every sequence of answers, of any length, in which every poll reads neither flag: after all these polls (one in the first
step, each further one in eight) the operation is about to poll again. And against two targets that show neither flag for
ever, a line stuck at a byte with neither and the reference target (20_memory.md R71) while its TX queue is not empty and its
max-retries bit is clear: after every number of further steps the run goes on. Chip-enable is high, nothing has been
returned and no other request has been accepted. -/
def Obligations.DrainHangsWithoutTheExitFlags : Prop :=
  ∀ (s : State) (rest : List Input), s.Idle → txdrainLegal s.params = true →
    s.inputs = .call .txdrain :: rest → waits rest = true →
    (∀ (poll : PollAnswers) (polls : List PollAnswers) (more : List Byte),
      (∀ p ∈ poll :: polls, exitTest s.params p.fifo p.status = false) →
      s.target = .oracle ((poll :: polls).flatMap PollAnswers.script ++ more) →
      ∃ t, steps (8 * polls.length + 1) s = .next t ∧ t.ce = .high ∧ t.activity = .drain .readFifo ∧
        t.results = s.results ∧ t.inputs = rest ∧ t.target = .oracle more) ∧
    (∀ (b : Byte) (k : Nat), s.target = .constant b → exitTest s.params b b = false →
      ∃ t, steps (k + 1) s = .next t ∧ t.ce = .high ∧ t.activity ≠ .idle ∧ t.results = s.results ∧ t.inputs = rest) ∧
    (∀ (r : RefTarget) (k : Nat), s.target = .reference r → s.params.cmdRRegister &&& s.params.regAddrMask = 0 →
      s.params.regFifoStatus ≠ s.params.regStatus → exitTest s.params (r.fifoStatus s.params) (r.status s.params) = false →
      ∃ t, steps (k + 1) s = .next t ∧ t.ce = .high ∧ t.activity ≠ .idle ∧ t.results = s.results ∧ t.inputs = rest)

/-! ## One action and small steps; what is sent -/

/-- 40_register_access.md R111 to R114: the four small steps, each with everything it writes. S1 for every one-frame
operation an idle block accepts (its length is then at most `LEN_MAX`); S2; S3 for a read and for a write frame; S4,
which hands `(STAT, RBUF)` to a one-frame operation. The frames of TXDRAIN are those of DrainPollsUntilTheExitTest.
`received` is the draw of the exchange. That a request while a frame is in progress is refused as `requestWhileBusy` is
the model's choice (log entry 10). -/
def Obligations.SmallStepsWriteTheLatches : Prop :=
  ∀ s : State,
    (∀ i r ret, s.Idle → planOf s.params i = .ok (.frame r ret) → r.len ≤ s.params.lenMax ∧
      s.startInstr i = .next { s with
        opk := r.kind, cmd := r.command, wbuf := r.data, len := r.len, idx := 0, rbuf := [],
        csn := .low, phase := .cmd, activity := .frame ret, target := s.target.select, trace := s.trace ++ [.cs .low] }) ∧
    (s.phase ≠ .idle → ∀ i, exec i s = .refused .requestWhileBusy ∧ s.startInstr i = .refused .requestWhileBusy) ∧
    (s.phase = .cmd → ∃ tgt dr, s.smallStep = .next { s with
        stat := s.received s.cmd, phase := if s.len > 0 then .data else .fin,
        trace := s.trace ++ [.x s.cmd (s.received s.cmd)], target := tgt, draws := dr }) ∧
    (s.phase = .data → s.idx < s.len → s.opk = .fr → ∃ tgt dr, s.smallStep = .next { s with
        rbuf := s.rbuf ++ [s.received s.params.fill], idx := s.idx + 1,
        phase := if s.idx + 1 = s.len then .fin else .data,
        trace := s.trace ++ [.x s.params.fill (s.received s.params.fill)], target := tgt, draws := dr }) ∧
    (∀ b, s.phase = .data → s.idx < s.len → s.opk = .fw → s.wbuf[s.idx]? = some b → ∃ tgt dr, s.smallStep = .next { s with
        idx := s.idx + 1, phase := if s.idx + 1 = s.len then .fin else .data,
        trace := s.trace ++ [.x b (s.received b)], target := tgt, draws := dr }) ∧
    (∀ ret, s.phase = .fin → s.activity = .frame ret → s.smallStep = .next { s with
        csn := .high, phase := .idle, activity := .idle, results := s.results ++ [ret.value s.stat s.rbuf],
        trace := s.trace ++ [.cs .high], target := s.target.deselect s.params })

/-- 40_register_access.md R115: for every request but TXDRAIN, the small steps S1 to S4 (and TXPULSE's three events), `n + 3`
of them for a frame of `n` data exchanges, reach exactly the state of the operation carried out as one action. -/
def Obligations.SmallStepsAgreeWithOneAction : Prop :=
  ∀ (s : State) (i : Instr) (rest : List Input), s.Idle → wellFormed s.params i = true → i ≠ .txdrain →
    waits rest = true → s.inputs = .start i :: rest →
    steps (smallSteps s.params i) s = exec i { s with inputs := rest }

/-- 40_register_access.md R115, 43_chip_enable_ops.md R162: the same for TXDRAIN: after CE(1), DLY and the two frames of
its first poll the small steps stand where one action stands, but for the CE(0) that one more step makes when the exit
test held. -/
def Obligations.DrainSmallStepsAgreeWithOneAction : Prop :=
  ∀ (s t : State) (rest : List Input), s.Idle → waits rest = true → s.inputs = .start .txdrain :: rest →
    exec .txdrain { s with inputs := rest } = .next t →
    (t.activity ≠ .idle → steps (smallSteps s.params .txdrain) s = .next t) ∧
    (t.activity = .idle → steps (smallSteps s.params .txdrain + 1) s = .next t)

/-- 30_encoding.md R80 to R83, R88: what an operation that has returned drove on the bus is exactly its bus word, the
word the decoder reads: no answer of the target changes it. TXDRAIN has returned when its first poll ended it. -/
def Obligations.WhatIsSentIsTheEncodedWord : Prop :=
  ∀ (s t : State) (i : Instr), s.Idle → exec i s = .next t → t.activity = .idle →
    t.trace.map drivenOf = s.trace.map drivenOf ++ drivenWord s.params (encode s.params i)

/-- 40_register_access.md R121, 70_reset_and_hazards.md R215: for every sequence of well-formed calls without TXDRAIN and
of delays, every one completes in one step, in the order issued, and what is driven is the words of the calls one after
another, whatever the target answers; chip-enable is unchanged or low at the end. -/
def Obligations.CallSequencesDriveTheirWords : Prop :=
  ∀ (s : State) (program rest : List Input), s.Idle → s.inputs = program ++ rest →
    (∀ x ∈ program, (∃ us, x = .delay us) ∨ ∃ i, x = .call i ∧ i ≠ .txdrain ∧ wellFormed s.params i = true) →
    ∃ t, steps program.length s = .next t ∧ t.Idle ∧ t.inputs = rest ∧ (t.ce = s.ce ∨ t.ce = .low) ∧
      (s.csn = .high → t.csn = .high) ∧
      t.trace.map drivenOf = s.trace.map drivenOf ++ program.flatMap (drivenInput s.params)

/-- 40_register_access.md R121 (g), 43_chip_enable_ops.md R165 (f): two states that differ only in the target and the
free-value counter drive the same for every request but TXDRAIN, and TXDRAIN's first poll drives the same up to the
CE(0) of its exit. -/
def Obligations.WhatIsSentDoesNotDependOnTheTarget : Prop :=
  ∀ (s : State) (i : Instr) (tgt : Target) (dr : Nat) (t u : State),
    exec i s = .next t → exec i { s with target := tgt, draws := dr } = .next u →
    (i ≠ .txdrain → u.trace.map drivenOf = t.trace.map drivenOf) ∧
    (u.trace.map drivenOf = t.trace.map drivenOf ∨ u.trace.map drivenOf = t.trace.map drivenOf ++ [.ce .low] ∨
      t.trace.map drivenOf = u.trace.map drivenOf ++ [.ce .low])

/-! ## Decoding -/

/-- 30_encoding.md table E2 and 95_test_vectors.md V2, V13, V14, V16, V30, V35, V38, V39, V55, V71: words written out
from the tables, under the default configuration (log entry 2): thirteen decode, one is rejected. Where several operations
send a word (30_encoding.md R95), which one it is read as is the model's choice (log entry 14): the register read `0x00` as
RDREG, `0x07` as RXPIPE, `0x3F` as WRREG, `0x27` with `0x70` as CLRIRQ, `0xE1` as FLTX, `0xE2` as FLRX. -/
def Obligations.WordsOfTheTablesDecode : Prop :=
  decode defaultParams ⟨false, [[0b00000000, 0xFF]]⟩ = .ok (.rdreg 0x00) ∧
  decode defaultParams ⟨false, [[0b00001010, 0xFF, 0xFF, 0xFF, 0xFF, 0xFF]]⟩ = .ok (.rdbuf 0x0A 5) ∧
  decode defaultParams ⟨false, [[0b00111111, 0xFF]]⟩ = .ok (.wrreg 0x1F 0xFF) ∧
  decode defaultParams ⟨false, [[0b00110000, 0xD7, 0x1C, 0xCA, 0x3B, 0x8A]]⟩ =
    .ok (.wrbuf 0x10 [0xD7, 0x1C, 0xCA, 0x3B, 0x8A]) ∧
  decode defaultParams ⟨false, [[0b10100000, 0x01, 0x02, 0x03, 0x04]]⟩ = .ok (.ldtx [0x01, 0x02, 0x03, 0x04]) ∧
  decode defaultParams ⟨false, [[0b01100001, 0xFF, 0xFF, 0xFF, 0xFF]]⟩ = .ok (.rdrx 4) ∧
  decode defaultParams ⟨false, [[0b11100001]]⟩ = .ok .fltx ∧
  decode defaultParams ⟨false, [[0b11100010]]⟩ = .ok .flrx ∧
  decode defaultParams ⟨false, [[0b00000111, 0xFF]]⟩ = .ok .rxpipe ∧
  decode defaultParams ⟨false, [[0b00100111, 0x70]]⟩ = .ok .clrirq ∧
  decode defaultParams ⟨false, [[0b11111111]]⟩ = .ok (.cmd 0xFF) ∧
  decode defaultParams ⟨true, [[0b00010111, 0xFF], [0b00000111, 0xFF]]⟩ = .ok .txdrain ∧
  decode defaultParams ⟨true, []⟩ = .ok .txpulse ∧
  decode defaultParams ⟨false, [[]]⟩ = .error .emptyBracket

/-- 30_encoding.md R80 to R87, R95: the candidates of a bus word are EXACTLY the well-formed operations that send it,
for every configuration whose command bases lie outside the address field: no operand bit is dropped, no operation is
missed, none is invented. -/
def Obligations.CandidatesAreExactlyTheSenders : Prop :=
  ∀ (P : Params) (b : BusWord) (i : Instr),
    P.cmdRRegister &&& P.regAddrMask = 0 → P.cmdWRegister &&& P.regAddrMask = 0 →
    (i ∈ candidates P b ↔ wellFormed P i = true ∧ encode P i = b)

/-- 30_encoding.md R95: under the default configuration, for every well-formed operation whose word no more specific
row sends, decode of encode is the operation itself. -/
def Obligations.DecodeOfEncodeIsTheOperation : Prop :=
  ∀ i : Instr, wellFormed defaultParams i = true → unambiguous defaultParams i = true →
    decode defaultParams (encode defaultParams i) = .ok i

/-! ## The reference target (20_memory.md R71, "trusted for nothing": these say what the pair of block and simulator
does) -/

/-- 20_memory.md R65: "`write then read` of a single-byte register returns V", on the reference target and a register
it does not compute. -/
def Obligations.WrittenRegisterReadsBack : Prop :=
  ∀ (s : State) (r : RefTarget) (addr b : Byte), s.Idle → s.target = .reference r → blockLegal s.params = true →
    commandsDistinct s.params = true → AddrLegal s.params addr → addr ≠ s.params.regStatus →
    addr ≠ s.params.regFifoStatus →
    ∃ t u, exec (.wrreg addr b) s = .next t ∧ exec (.rdreg addr) t = .next u ∧ u.results = t.results ++ [.byte b]

/-- 20_memory.md R65: "`writeBuffer` then `readBuffer` of the same length returns the written bytes unchanged", for
every length up to `LEN_MAX`. -/
def Obligations.WrittenBufferReadsBack : Prop :=
  ∀ (s : State) (r : RefTarget) (addr : Byte) (w : List Byte), s.Idle → s.target = .reference r →
    blockLegal s.params = true → commandsDistinct s.params = true → AddrLegal s.params addr →
    addr ≠ s.params.regStatus → addr ≠ s.params.regFifoStatus → LengthLegal s.params w.length →
    ∃ t u, exec (.wrbuf addr w) s = .next t ∧ exec (.rdbuf addr w.length) t = .next u ∧
      u.results = t.results ++ [.bytes w]

/-- 20_memory.md R71, the frame of a register write: byte `i` of the data is byte `i` of the register, every other byte
of the register map reads as before, and queues and latched bits are unchanged. WRREG is the case of one byte. -/
def Obligations.RegisterWriteStoresOnlyItsBytes : Prop :=
  ∀ (s : State) (r : RefTarget) (addr : Byte), s.Idle → s.target = .reference r → blockLegal s.params = true →
    commandsDistinct s.params = true → AddrLegal s.params addr → addr ≠ s.params.regStatus →
    (∀ w : List Byte, LengthLegal s.params w.length → ∃ t r', exec (.wrbuf addr w) s = .next t ∧
      t.target = .reference r' ∧ r'.tx = r.tx ∧ r'.rx = r.rx ∧ r'.fl = r.fl ∧
      (∀ i, i < w.length → r'.reg.read (regKey addr i) = w[i]?) ∧
      (∀ key, (∀ i, i < w.length → key ≠ regKey addr i) → r'.reg.read key = r.reg.read key)) ∧
    (∀ b : Byte, ∃ t r', exec (.wrreg addr b) s = .next t ∧
      t.target = .reference r' ∧ r'.tx = r.tx ∧ r'.rx = r.rx ∧ r'.fl = r.fl ∧
      r'.reg.read (regKey addr 0) = some b ∧
      (∀ key, key ≠ regKey addr 0 → r'.reg.read key = r.reg.read key))

/-- 20_memory.md R60, R71: reading changes nothing in the target: RDREG, RDBUF, RXPIPE and the polls of TXDRAIN leave
register map, queues and latched bits as they were; TXPULSE makes no frame. -/
def Obligations.ReadsLeaveTheReferenceTarget : Prop :=
  ∀ (s t : State) (r : RefTarget) (i : Instr), s.Idle → s.target = .reference r → blockLegal s.params = true →
    commandsDistinct s.params = true → s.params.statusSource = .readStatusReg →
    ((∃ addr, i = .rdreg addr) ∨ (∃ addr n, i = .rdbuf addr n) ∨ i = .rxpipe ∨ i = .txdrain ∨ i = .txpulse) →
    exec i s = .next t →
    ∃ r', t.target = .reference r' ∧ r'.reg = r.reg ∧ r'.tx = r.tx ∧ r'.rx = r.rx ∧ r'.fl = r.fl

/-- 20_memory.md R71: the payload commands and the flushes: LDTX appends one payload to the TX queue, RDRX removes the
head of the RX queue, FLTX and FLRX empty theirs; nothing else changes. The model's choice (log entry 21): the time of an
append and a flush, and that RDRX removes the head whatever number of bytes it reads, none, another than the payload's width
or with the queue empty (then nothing), cases 41_fifo_sequencer.md R131 and 93_implementation_defined.md U6 leave
unpredicted. -/
def Obligations.FifoOperationsMoveThePayloads : Prop :=
  ∀ (s : State) (r : RefTarget), s.Idle → s.target = .reference r → blockLegal s.params = true →
    commandsDistinct s.params = true →
    (∀ w : List Byte, PayloadLenLegal s.params → w.length = s.params.payloadLen → ∃ t, exec (.ldtx w) s = .next t ∧
      t.target = .reference { r with tx := r.tx ++ [w], bracket := .outside }) ∧
    (∀ n : Nat, LengthLegal s.params n → ∃ t, exec (.rdrx n) s = .next t ∧
      t.target = .reference { r with rx := r.rx.tail, bracket := .outside }) ∧
    (∃ t, exec .fltx s = .next t ∧ t.target = .reference { r with tx := [], bracket := .outside }) ∧
    (∃ t, exec .flrx s = .next t ∧ t.target = .reference { r with rx := [], bracket := .outside })

/-- 20_memory.md R71, 42_status_ops.md R152: on the reference target CLRIRQ clears the three latched bits and nothing
else; a byte WRREG writes to the status register clears exactly those of them where it has a 1; and of several bytes WRBUF
writes to it each does (R71 speaks of one data byte: that each of several clears is the model's choice, log entry 21), so
that no byte clears nothing. R71 numbers the latched bits with the defaults, 6, 5 and 4: that they are those of the three bit
numbers under every configuration is the model's choice (log entry 27). -/
def Obligations.ClrirqClearsTheLatchedBits : Prop :=
  ∀ (s : State) (r : RefTarget), s.Idle → s.target = .reference r → blockLegal s.params = true →
    commandsDistinct s.params = true →
    (∃ t, exec .clrirq s = .next t ∧
      t.target = .reference { r with fl := r.fl &&& ~~~latchedBits s.params, bracket := .outside }) ∧
    (∀ b : Byte, ∃ t, exec (.wrreg s.params.regStatus b) s = .next t ∧
      t.target = .reference { r with fl := r.fl &&& ~~~(b &&& latchedBits s.params), bracket := .outside }) ∧
    (∀ w : List Byte, LengthLegal s.params w.length → ∃ t, exec (.wrbuf s.params.regStatus w) s = .next t ∧
      t.target = .reference
        { r with fl := r.fl &&& ~~~(w.foldl (· ||| ·) 0 &&& latchedBits s.params), bracket := .outside })

/-- 70_reset_and_hazards.md R224, 95_test_vectors.md P3: the master's receive: RXPIPE returns the pipe of the payload at
the RX queue's head, RDRX of that payload's length returns its bytes, and a further RXPIPE returns `RX_PIPE_NONE` when the
queue is empty. That the simulator answers `st` at `REG_STATUS` also where `REG_FIFO_STATUS` is the same register
(90_conflicts.md C6) is the model's choice (log entry 27). -/
def Obligations.ReceiveReadsPipeThenPayload : Prop :=
  ∀ (s : State) (r : RefTarget) (p : BitVec 3) (payload : List Byte), s.Idle → s.target = .reference r →
    blockLegal s.params = true → commandsDistinct s.params = true → s.params.statusSource = .readStatusReg →
    r.rx = [(p, payload)] → r.fl &&& 0x0E = 0 → LengthLegal s.params payload.length →
    ∃ t u v, exec .rxpipe s = .next t ∧ exec (.rdrx payload.length) t = .next u ∧ exec .rxpipe u = .next v ∧
      v.results = s.results ++ [.pipe p, .bytes payload, .pipe s.params.rxPipeNone]

/-! ## The boot program -/

/-- 70_reset_and_hazards.md R205: after step 1 a slave with auto-ack writes acknowledge-enable 0x01 and then the
retransmission byte whose delay field is 10 for device number 0 and 0 for every other, the retry count the same; a master
writes 0x03 and 0x00; without auto-ack both are turned off and the feature byte of step 8 is 0x01. A retry count of more than
four bits stops a slave's program at its item (00_scope.md R10; log entries 16, 28). -/
def Obligations.BootConfiguresRetransmission : Prop :=
  ∀ P : Params,
    (P.autoAck = true → P.role = .slave → P.maxRetry ≤ 15 →
      ∃ b : Byte, b.toNat = (if P.devNum = 0 then 160 else 0) + P.maxRetry ∧
        (bootProgram P).take 3 = bootStep1 P ++ [.call (.wrreg P.regEnAa 0x01), .call (.wrreg P.regSetupRetr b)]) ∧
    (P.autoAck = true → P.role = .slave → 15 < P.maxRetry →
      (bootProgram P).take 3 = bootStep1 P ++ [.call (.wrreg P.regEnAa 0x01), .unpredicted .retryCount]) ∧
    (P.autoAck = true → P.role = .master →
      (bootProgram P).take 3 = bootStep1 P ++ [.call (.wrreg P.regEnAa 0x03), .call (.wrreg P.regSetupRetr 0x00)]) ∧
    (P.autoAck = false →
      (bootProgram P).take 3 = bootStep1 P ++ [.call (.wrreg P.regEnAa 0x00), .call (.wrreg P.regSetupRetr 0x00)]) ∧
    Input.call (.wrreg P.regFeature (if P.autoAck = true then 0x00 else 0x01)) ∈ bootProgram P

/-- 70_reset_and_hazards.md R207, R209: with an illegal `ADDR_WIDTH` the program is steps 1, 2, 3 and 5, step 4 gives
nothing, and from step 6 on nothing is predicted: each of the five items of steps 1 to 3 is a write of one of these steps' own
five registers or an item at which nothing is predicted (a parameter outside its range, log entry 16), so that none of them is
the write of the address width; and an idle block refuses an item at which nothing is predicted, under its name. A run of the
program from an idle state, under an otherwise legal configuration (`RF_SETUP_VALUE` as log entry 30 reads R206, the model's
choice), makes its six operations and is refused there. -/
def Obligations.BootSkipsAnIllegalWidth : Prop :=
  (∀ P : Params, ¬(3 ≤ P.addrWidth ∧ P.addrWidth ≤ 5) →
    (∃ rest, bootProgram P =
      bootStep1 P ++ bootStep2 P ++ bootStep3 P ++ [.call .clrirq, .unpredicted .addressWidth] ++ rest) ∧
    (bootStep1 P ++ bootStep2 P ++ bootStep3 P).length = 5 ∧
    ∀ x ∈ bootStep1 P ++ bootStep2 P ++ bootStep3 P, (∃ u, x = .unpredicted u) ∨
      ∃ reg b, reg ∈ [P.regConfig, P.regEnAa, P.regSetupRetr, P.regRfCh, P.regRfSetup] ∧ x = .call (.wrreg reg b)) ∧
  (∀ (s : State) (u : Unpredicted) (rest : List Input), s.Idle → s.inputs = .unpredicted u :: rest →
    step s = .refused (.bootUnpredicted u)) ∧
  (∀ (s : State) (rest : List Input), s.Idle → blockLegal s.params = true → bootLegal s.params = true →
    s.params.maxRetry ≤ 15 → ¬(3 ≤ s.params.addrWidth ∧ s.params.addrWidth ≤ 5) →
    s.inputs = bootProgram s.params ++ rest →
    ∃ t, steps 6 s = .next t ∧ t.Idle ∧
      t.trace.map drivenOf = s.trace.map drivenOf ++ ((bootProgram s.params).take 6).flatMap (drivenInput s.params) ∧
      step t = .refused (.bootUnpredicted .addressWidth))

/-- 70_reset_and_hazards.md R203 to R214, R222: the whole boot program of a configuration whose width and three described
bytes are legal, item by item: step 1 is first, the power-up write comes last before the settle delay; step 4 writes
`ADDR_WIDTH - 2`; step 6 (R209; 95_test_vectors.md T5, T6) gives the master RX pipes 0 and 1 with the two fixed addresses and
the payload length, and a TX address of zeros, and the slave its device's address on RX pipe 0 and as TX address with width
0x00; a slave of any other device number has no step 6 that is predicted. Where `CFG_PD_VALUE`, `RF_SETUP_VALUE` or
`CFG_PU_VALUE` breaks the constraints of R204, R206 or R213, or the `PAYLOAD_LEN` a master writes is not 1 to 32, the program
holds in its place the item at which nothing is predicted (00_scope.md R10; log entries 16, 28). That the "small value" R206
asks for in bits 2:1 of `RF_SETUP_VALUE` is 0 or 1, so that 2 and 3 have that item, is log entry 30, the model's choice. -/
def Obligations.BootProgramIsTheListing : Prop :=
  (∀ P : Params, 3 ≤ P.addrWidth → P.addrWidth ≤ 5 → PowerDownLegal P → RfSetupLegal P → PowerUpLegal P →
    ∃ aw pl : Byte, aw.toNat = P.addrWidth - 2 ∧ pl.toNat = P.payloadLen % 256 ∧
    (P.role = .master → PayloadLenLegal P → bootProgram P =
      [.call (.wrreg P.regConfig P.cfgPdValue)] ++ bootStep2 P ++
      [.call (.wrreg P.regRfCh 0x02), .call (.wrreg P.regRfSetup P.rfSetupValue), .call (.wrreg P.regSetupAw aw),
       .call .clrirq,
       .call (.wrreg P.regEnRxaddr 0x03),
       .call (.wrbuf P.regRxAddrP0 (List.take P.addrWidth [0x0F, 0xB3, 0x47, 0x17, 0x1C])),
       .call (.wrbuf P.regRxAddrP1 (List.take P.addrWidth [0xD7, 0x1C, 0xCA, 0x3B, 0x8A])),
       .call (.wrreg P.regRxPwP0 pl), .call (.wrreg P.regRxPwP1 pl),
       .call (.wrbuf P.regTxAddr (List.replicate P.addrWidth 0x00)),
       .call (.wrreg P.regDynpd 0x00), .call (.wrreg P.regFeature (if P.autoAck = true then 0x00 else 0x01)),
       .call .fltx, .call .flrx, .call (.wrreg P.regConfig P.cfgPuValue), .delay P.tSettleUs]) ∧
    (P.role = .master → ¬PayloadLenLegal P → ∃ rest, bootProgram P =
      [.call (.wrreg P.regConfig P.cfgPdValue)] ++ bootStep2 P ++
      [.call (.wrreg P.regRfCh 0x02), .call (.wrreg P.regRfSetup P.rfSetupValue), .call (.wrreg P.regSetupAw aw),
       .call .clrirq,
       .call (.wrreg P.regEnRxaddr 0x03),
       .call (.wrbuf P.regRxAddrP0 (List.take P.addrWidth [0x0F, 0xB3, 0x47, 0x17, 0x1C])),
       .call (.wrbuf P.regRxAddrP1 (List.take P.addrWidth [0xD7, 0x1C, 0xCA, 0x3B, 0x8A])),
       .unpredicted .payloadWidth] ++ rest) ∧
    (∀ address : List Byte, P.role = .slave →
      (P.devNum = 0 ∧ address = [0x0F, 0xB3, 0x47, 0x17, 0x1C] ∨
        P.devNum = 1 ∧ address = [0xD7, 0x1C, 0xCA, 0x3B, 0x8A]) →
      bootProgram P =
      [.call (.wrreg P.regConfig P.cfgPdValue)] ++ bootStep2 P ++
      [.call (.wrreg P.regRfCh 0x02), .call (.wrreg P.regRfSetup P.rfSetupValue), .call (.wrreg P.regSetupAw aw),
       .call .clrirq,
       .call (.wrreg P.regEnRxaddr 0x01),
       .call (.wrbuf P.regRxAddrP0 (address.take P.addrWidth)), .call (.wrbuf P.regTxAddr (address.take P.addrWidth)),
       .call (.wrreg P.regRxPwP0 0x00),
       .call (.wrreg P.regDynpd 0x00), .call (.wrreg P.regFeature (if P.autoAck = true then 0x00 else 0x01)),
       .call .fltx, .call .flrx, .call (.wrreg P.regConfig P.cfgPuValue), .delay P.tSettleUs]) ∧
    (P.role = .slave → 2 ≤ P.devNum → ∃ rest, bootProgram P =
      [.call (.wrreg P.regConfig P.cfgPdValue)] ++ bootStep2 P ++
      [.call (.wrreg P.regRfCh 0x02), .call (.wrreg P.regRfSetup P.rfSetupValue), .call (.wrreg P.regSetupAw aw),
       .call .clrirq, .unpredicted .deviceNumber] ++ rest)) ∧
  ∀ P : Params,
    (bootProgram P).head? = some (if PowerDownLegal P then .call (.wrreg P.regConfig P.cfgPdValue)
      else .unpredicted .powerDownByte) ∧
    (bootProgram P)[3]? = some (.call (.wrreg P.regRfCh 0x02)) ∧
    (bootProgram P)[4]? = some (if RfSetupLegal P then .call (.wrreg P.regRfSetup P.rfSetupValue)
      else .unpredicted .rfSetupByte) ∧
    ∃ front, bootProgram P = front ++
      [if PowerUpLegal P then .call (.wrreg P.regConfig P.cfgPuValue) else .unpredicted .powerUpByte, .delay P.tSettleUs]

/-- 70_reset_and_hazards.md R215, R203, R221: under a legal configuration the boot program cannot fail: it runs to its
end in one step an item, 19 for a master and 17 for a slave, on every target; what it drives is a function of the
configuration alone; it ends with the settle delay and the block idle. What a legal `RF_SETUP_VALUE` is follows log entry 30,
the model's choice. -/
def Obligations.BootProgramRunsToItsEnd : Prop :=
  ∀ (s : State) (rest : List Input), s.Idle → blockLegal s.params = true → bootLegal s.params = true →
    buildLegal s.params = true → s.inputs = bootProgram s.params ++ rest →
    (bootProgram s.params).length = (match s.params.role with | .master => 19 | .slave => 17) ∧
    ∃ t, steps (bootProgram s.params).length s = .next t ∧ t.Idle ∧ t.inputs = rest ∧ t.ce = s.ce ∧
      t.trace.getLast? = some (.dly s.params.tSettleUs) ∧
      t.trace.map drivenOf = s.trace.map drivenOf ++ (bootProgram s.params).flatMap (drivenInput s.params)
end

