-- ==== Sys2Proof/Laws/Memory.lean ====
section
/-! SUPPORT. The register map of the reference target: a read after a write, and the canonical form kept by every
operation. -/

namespace Sys2Proof.Machine

@[simp] theorem Memory.read_nil (key : Nat) : Memory.read [] key = none := rfl

/-- A read after a write: the byte written at its key, the old byte at every other key. -/
theorem Memory.read_write (m : Memory) (key key' : Nat) (b : Byte) :
    Memory.read (Memory.write m key b) key' = if key = key' then some b else Memory.read m key' := by
  induction m with
  | nil => simp [Memory.write, Memory.read]
  | cons c rest ih =>
    obtain ⟨k, old⟩ := c
    simp only [Memory.write]
    split
    · simp [Memory.read]
    · split
      · subst_vars; simp only [Memory.read]; split <;> rfl
      · simp only [Memory.read, ih]; split
        · subst_vars; simp_all
        · rfl

theorem Memory.read_write_self (m : Memory) (key : Nat) (b : Byte) :
    Memory.read (Memory.write m key b) key = some b := by simp [Memory.read_write]

theorem Memory.read_write_other (m : Memory) {key key' : Nat} (b : Byte) (h : key ≠ key') :
    Memory.read (Memory.write m key b) key' = Memory.read m key' := by simp [Memory.read_write, h]

/-- A written memory lists the written key and keys it listed before. -/
theorem Memory.mem_write {m : Memory} {key : Nat} {b : Byte} {c : Host.Cell}
    (h : c ∈ Memory.write m key b) : c.1 = key ∨ c ∈ m := by
  induction m with
  | nil => simp_all [Memory.write]
  | cons d rest ih =>
    obtain ⟨k, old⟩ := d
    simp only [Memory.write] at h
    split at h
    · rcases List.mem_cons.1 h with rfl | h
      · exact .inl rfl
      · exact .inr h
    · split at h
      · rcases List.mem_cons.1 h with rfl | h
        · subst_vars; exact .inl rfl
        · exact .inr (List.mem_cons_of_mem _ h)
      · rcases List.mem_cons.1 h with rfl | h
        · exact .inr List.mem_cons_self
        · exact (ih h).imp id (List.mem_cons_of_mem _)

/-- A write keeps the canonical form. -/
theorem Memory.write_wf {m : Memory} (key : Nat) (b : Byte) (h : m.wf) : (Memory.write m key b).wf := by
  induction m with
  | nil => simp [Memory.write, Memory.wf]
  | cons d rest ih =>
    obtain ⟨k, old⟩ := d
    obtain ⟨hk, hrest⟩ := List.pairwise_cons.1 h
    simp only [Memory.write]
    split
    · refine List.pairwise_cons.2 ⟨fun c hc => ?_, h⟩
      rcases List.mem_cons.1 hc with rfl | hc
      · assumption
      · exact lt_trans ‹key < k› (hk c hc)
    · split
      · exact List.pairwise_cons.2 ⟨hk, hrest⟩
      · refine List.pairwise_cons.2 ⟨fun c hc => ?_, ih hrest⟩
        rcases Memory.mem_write hc with h1 | h1
        · rw [h1]; omega
        · exact hk c h1

/-- Distinct register bytes have distinct keys. -/
theorem regKey_inj {a a' : Byte} {i i' : Nat} : regKey a i = regKey a' i' ↔ a = a' ∧ i = i' := by
  have h := a.isLt
  have h' := a'.isLt
  simp only [regKey]
  constructor
  · intro e
    exact ⟨BitVec.eq_of_toNat_eq (by omega), by omega⟩
  · rintro ⟨rfl, rfl⟩; rfl

/-- One exchange keeps the reference target's register map canonical. -/
theorem RefTarget.exchange_wf (P : Params) (r : RefTarget) (out : Byte) (h : r.reg.wf) :
    (r.exchange P out).2.reg.wf := by
  unfold RefTarget.exchange
  split
  · exact h
  · exact h
  · simp only [RefTarget.dataByte]
    split
    · exact h
    · split
      · simp only [RefTarget.writeByte]
        split
        · exact h
        · exact Memory.write_wf _ _ h
      · split <;> exact h

/-- The end of a frame leaves the register map alone. -/
theorem RefTarget.endFrame_reg (P : Params) (r : RefTarget) (c : Byte) (got : List Byte) :
    (r.endFrame P c got).reg = r.reg := by
  unfold RefTarget.endFrame
  split_ifs <;> rfl

theorem RefTarget.deselect_reg (P : Params) (r : RefTarget) : (r.deselect P).reg = r.reg := by
  unfold RefTarget.deselect
  split
  · exact RefTarget.endFrame_reg ..
  · rfl
  · rfl

theorem Target.select_wf {t : Target} (h : t.wf = true) : t.select.wf = true := by
  cases t <;> exact h

theorem Target.deselect_wf (P : Params) {t : Target} (h : t.wf = true) : (t.deselect P).wf = true := by
  cases t with
  | reference r => simpa [Target.wf, Target.deselect, RefTarget.deselect_reg] using h
  | oracle _ => exact h
  | constant _ => exact h

theorem Target.exchange_wf (P : Params) {t : Target} (out : Byte) (h : t.wf = true) :
    (t.exchange P out).2.wf = true := by
  cases t with
  | reference r =>
    have := RefTarget.exchange_wf P r out (by simpa [Target.wf] using h)
    simpa [Target.wf, Target.exchange] using this
  | oracle l => cases l <;> rfl
  | constant _ => rfl

/-- The empty register map is canonical. -/
theorem Memory.nil_wf : Memory.wf [] := List.Pairwise.nil

/-- The target at reset is in canonical form, under every configuration. -/
theorem State.resetWith_target_wf (P : Params) : (State.resetWith P).target.wf = true := rfl

end Sys2Proof.Machine
end

