-- ==== Sys2Proof/Laws/State.lean ====
section
/-! SUPPORT. The fields of a state after each named update: one lemma per field per update, so that no proof unfolds a
record update. -/

namespace Sys2Proof.Machine

variable (s : State)

@[simp] theorem State.emit_csn (e : Event) : (s.emit e).csn = s.csn := rfl
@[simp] theorem State.emit_ce (e : Event) : (s.emit e).ce = s.ce := rfl
@[simp] theorem State.emit_phase (e : Event) : (s.emit e).phase = s.phase := rfl
@[simp] theorem State.emit_opk (e : Event) : (s.emit e).opk = s.opk := rfl
@[simp] theorem State.emit_cmd (e : Event) : (s.emit e).cmd = s.cmd := rfl
@[simp] theorem State.emit_len (e : Event) : (s.emit e).len = s.len := rfl
@[simp] theorem State.emit_idx (e : Event) : (s.emit e).idx = s.idx := rfl
@[simp] theorem State.emit_wbuf (e : Event) : (s.emit e).wbuf = s.wbuf := rfl
@[simp] theorem State.emit_rbuf (e : Event) : (s.emit e).rbuf = s.rbuf := rfl
@[simp] theorem State.emit_stat (e : Event) : (s.emit e).stat = s.stat := rfl
@[simp] theorem State.emit_activity (e : Event) : (s.emit e).activity = s.activity := rfl
@[simp] theorem State.emit_trace (e : Event) : (s.emit e).trace = s.trace ++ [e] := rfl
@[simp] theorem State.emit_results (e : Event) : (s.emit e).results = s.results := rfl
@[simp] theorem State.emit_inputs (e : Event) : (s.emit e).inputs = s.inputs := rfl
@[simp] theorem State.emit_target (e : Event) : (s.emit e).target = s.target := rfl
@[simp] theorem State.emit_draws (e : Event) : (s.emit e).draws = s.draws := rfl
@[simp] theorem State.emit_params (e : Event) : (s.emit e).params = s.params := rfl

@[simp] theorem State.assertSelect_csn : s.assertSelect.csn = .low := rfl
@[simp] theorem State.assertSelect_ce : s.assertSelect.ce = s.ce := rfl
@[simp] theorem State.assertSelect_phase : s.assertSelect.phase = s.phase := rfl
@[simp] theorem State.assertSelect_opk : s.assertSelect.opk = s.opk := rfl
@[simp] theorem State.assertSelect_cmd : s.assertSelect.cmd = s.cmd := rfl
@[simp] theorem State.assertSelect_len : s.assertSelect.len = s.len := rfl
@[simp] theorem State.assertSelect_idx : s.assertSelect.idx = s.idx := rfl
@[simp] theorem State.assertSelect_wbuf : s.assertSelect.wbuf = s.wbuf := rfl
@[simp] theorem State.assertSelect_rbuf : s.assertSelect.rbuf = s.rbuf := rfl
@[simp] theorem State.assertSelect_stat : s.assertSelect.stat = s.stat := rfl
@[simp] theorem State.assertSelect_activity : s.assertSelect.activity = s.activity := rfl
@[simp] theorem State.assertSelect_trace : s.assertSelect.trace = s.trace ++ [.cs .low] := rfl
@[simp] theorem State.assertSelect_results : s.assertSelect.results = s.results := rfl
@[simp] theorem State.assertSelect_inputs : s.assertSelect.inputs = s.inputs := rfl
@[simp] theorem State.assertSelect_target : s.assertSelect.target = s.target.select := rfl
@[simp] theorem State.assertSelect_draws : s.assertSelect.draws = s.draws := rfl
@[simp] theorem State.assertSelect_params : s.assertSelect.params = s.params := rfl

@[simp] theorem State.releaseSelect_csn : s.releaseSelect.csn = .high := rfl
@[simp] theorem State.releaseSelect_ce : s.releaseSelect.ce = s.ce := rfl
@[simp] theorem State.releaseSelect_phase : s.releaseSelect.phase = s.phase := rfl
@[simp] theorem State.releaseSelect_opk : s.releaseSelect.opk = s.opk := rfl
@[simp] theorem State.releaseSelect_cmd : s.releaseSelect.cmd = s.cmd := rfl
@[simp] theorem State.releaseSelect_len : s.releaseSelect.len = s.len := rfl
@[simp] theorem State.releaseSelect_idx : s.releaseSelect.idx = s.idx := rfl
@[simp] theorem State.releaseSelect_wbuf : s.releaseSelect.wbuf = s.wbuf := rfl
@[simp] theorem State.releaseSelect_rbuf : s.releaseSelect.rbuf = s.rbuf := rfl
@[simp] theorem State.releaseSelect_stat : s.releaseSelect.stat = s.stat := rfl
@[simp] theorem State.releaseSelect_activity : s.releaseSelect.activity = s.activity := rfl
@[simp] theorem State.releaseSelect_trace : s.releaseSelect.trace = s.trace ++ [.cs .high] := rfl
@[simp] theorem State.releaseSelect_results : s.releaseSelect.results = s.results := rfl
@[simp] theorem State.releaseSelect_inputs : s.releaseSelect.inputs = s.inputs := rfl
@[simp] theorem State.releaseSelect_target : s.releaseSelect.target = s.target.deselect s.params := rfl
@[simp] theorem State.releaseSelect_draws : s.releaseSelect.draws = s.draws := rfl
@[simp] theorem State.releaseSelect_params : s.releaseSelect.params = s.params := rfl

@[simp] theorem State.setEnable_csn (l : Level) : (s.setEnable l).csn = s.csn := rfl
@[simp] theorem State.setEnable_ce (l : Level) : (s.setEnable l).ce = l := rfl
@[simp] theorem State.setEnable_phase (l : Level) : (s.setEnable l).phase = s.phase := rfl
@[simp] theorem State.setEnable_opk (l : Level) : (s.setEnable l).opk = s.opk := rfl
@[simp] theorem State.setEnable_cmd (l : Level) : (s.setEnable l).cmd = s.cmd := rfl
@[simp] theorem State.setEnable_len (l : Level) : (s.setEnable l).len = s.len := rfl
@[simp] theorem State.setEnable_idx (l : Level) : (s.setEnable l).idx = s.idx := rfl
@[simp] theorem State.setEnable_wbuf (l : Level) : (s.setEnable l).wbuf = s.wbuf := rfl
@[simp] theorem State.setEnable_rbuf (l : Level) : (s.setEnable l).rbuf = s.rbuf := rfl
@[simp] theorem State.setEnable_stat (l : Level) : (s.setEnable l).stat = s.stat := rfl
@[simp] theorem State.setEnable_activity (l : Level) : (s.setEnable l).activity = s.activity := rfl
@[simp] theorem State.setEnable_trace (l : Level) : (s.setEnable l).trace = s.trace ++ [.ce l] := rfl
@[simp] theorem State.setEnable_results (l : Level) : (s.setEnable l).results = s.results := rfl
@[simp] theorem State.setEnable_inputs (l : Level) : (s.setEnable l).inputs = s.inputs := rfl
@[simp] theorem State.setEnable_target (l : Level) : (s.setEnable l).target = s.target := rfl
@[simp] theorem State.setEnable_draws (l : Level) : (s.setEnable l).draws = s.draws := rfl
@[simp] theorem State.setEnable_params (l : Level) : (s.setEnable l).params = s.params := rfl

@[simp] theorem State.delay_csn (us : Nat) : (s.delay us).csn = s.csn := rfl
@[simp] theorem State.delay_ce (us : Nat) : (s.delay us).ce = s.ce := rfl
@[simp] theorem State.delay_phase (us : Nat) : (s.delay us).phase = s.phase := rfl
@[simp] theorem State.delay_opk (us : Nat) : (s.delay us).opk = s.opk := rfl
@[simp] theorem State.delay_cmd (us : Nat) : (s.delay us).cmd = s.cmd := rfl
@[simp] theorem State.delay_len (us : Nat) : (s.delay us).len = s.len := rfl
@[simp] theorem State.delay_idx (us : Nat) : (s.delay us).idx = s.idx := rfl
@[simp] theorem State.delay_wbuf (us : Nat) : (s.delay us).wbuf = s.wbuf := rfl
@[simp] theorem State.delay_rbuf (us : Nat) : (s.delay us).rbuf = s.rbuf := rfl
@[simp] theorem State.delay_stat (us : Nat) : (s.delay us).stat = s.stat := rfl
@[simp] theorem State.delay_activity (us : Nat) : (s.delay us).activity = s.activity := rfl
@[simp] theorem State.delay_trace (us : Nat) : (s.delay us).trace = s.trace ++ [.dly us] := rfl
@[simp] theorem State.delay_results (us : Nat) : (s.delay us).results = s.results := rfl
@[simp] theorem State.delay_inputs (us : Nat) : (s.delay us).inputs = s.inputs := rfl
@[simp] theorem State.delay_target (us : Nat) : (s.delay us).target = s.target := rfl
@[simp] theorem State.delay_draws (us : Nat) : (s.delay us).draws = s.draws := rfl
@[simp] theorem State.delay_params (us : Nat) : (s.delay us).params = s.params := rfl

@[simp] theorem State.exchanged_csn (b : Byte) : (s.exchanged b).csn = s.csn := rfl
@[simp] theorem State.exchanged_ce (b : Byte) : (s.exchanged b).ce = s.ce := rfl
@[simp] theorem State.exchanged_phase (b : Byte) : (s.exchanged b).phase = s.phase := rfl
@[simp] theorem State.exchanged_opk (b : Byte) : (s.exchanged b).opk = s.opk := rfl
@[simp] theorem State.exchanged_cmd (b : Byte) : (s.exchanged b).cmd = s.cmd := rfl
@[simp] theorem State.exchanged_len (b : Byte) : (s.exchanged b).len = s.len := rfl
@[simp] theorem State.exchanged_idx (b : Byte) : (s.exchanged b).idx = s.idx := rfl
@[simp] theorem State.exchanged_wbuf (b : Byte) : (s.exchanged b).wbuf = s.wbuf := rfl
@[simp] theorem State.exchanged_rbuf (b : Byte) : (s.exchanged b).rbuf = s.rbuf := rfl
@[simp] theorem State.exchanged_stat (b : Byte) : (s.exchanged b).stat = s.stat := rfl
@[simp] theorem State.exchanged_activity (b : Byte) : (s.exchanged b).activity = s.activity := rfl
@[simp] theorem State.exchanged_trace (b : Byte) : (s.exchanged b).trace = s.trace ++ [.x b (s.received b)] := rfl
@[simp] theorem State.exchanged_results (b : Byte) : (s.exchanged b).results = s.results := rfl
@[simp] theorem State.exchanged_inputs (b : Byte) : (s.exchanged b).inputs = s.inputs := rfl
@[simp] theorem State.exchanged_target (b : Byte) : (s.exchanged b).target = (s.target.exchange s.params b).2 := rfl
@[simp] theorem State.exchanged_draws (b : Byte) : (s.exchanged b).draws = if (s.target.exchange s.params b).1.isSome then s.draws else s.draws + 1 := rfl
@[simp] theorem State.exchanged_params (b : Byte) : (s.exchanged b).params = s.params := rfl

@[simp] theorem State.accept_csn (r : FrameReq) : (s.accept r).csn = .low := rfl
@[simp] theorem State.accept_ce (r : FrameReq) : (s.accept r).ce = s.ce := rfl
@[simp] theorem State.accept_phase (r : FrameReq) : (s.accept r).phase = .cmd := rfl
@[simp] theorem State.accept_opk (r : FrameReq) : (s.accept r).opk = r.kind := rfl
@[simp] theorem State.accept_cmd (r : FrameReq) : (s.accept r).cmd = r.command := rfl
@[simp] theorem State.accept_len (r : FrameReq) : (s.accept r).len = r.len := rfl
@[simp] theorem State.accept_idx (r : FrameReq) : (s.accept r).idx = 0 := rfl
@[simp] theorem State.accept_wbuf (r : FrameReq) : (s.accept r).wbuf = r.data := rfl
@[simp] theorem State.accept_rbuf (r : FrameReq) : (s.accept r).rbuf = [] := rfl
@[simp] theorem State.accept_stat (r : FrameReq) : (s.accept r).stat = s.stat := rfl
@[simp] theorem State.accept_activity (r : FrameReq) : (s.accept r).activity = s.activity := rfl
@[simp] theorem State.accept_trace (r : FrameReq) : (s.accept r).trace = s.trace ++ [.cs .low] := rfl
@[simp] theorem State.accept_results (r : FrameReq) : (s.accept r).results = s.results := rfl
@[simp] theorem State.accept_inputs (r : FrameReq) : (s.accept r).inputs = s.inputs := rfl
@[simp] theorem State.accept_target (r : FrameReq) : (s.accept r).target = s.target.select := rfl
@[simp] theorem State.accept_draws (r : FrameReq) : (s.accept r).draws = s.draws := rfl
@[simp] theorem State.accept_params (r : FrameReq) : (s.accept r).params = s.params := rfl

@[simp] theorem State.commandExchange_csn : s.commandExchange.csn = s.csn := rfl
@[simp] theorem State.commandExchange_ce : s.commandExchange.ce = s.ce := rfl
@[simp] theorem State.commandExchange_phase : s.commandExchange.phase = if 0 < s.len then .data else .fin := rfl
@[simp] theorem State.commandExchange_opk : s.commandExchange.opk = s.opk := rfl
@[simp] theorem State.commandExchange_cmd : s.commandExchange.cmd = s.cmd := rfl
@[simp] theorem State.commandExchange_len : s.commandExchange.len = s.len := rfl
@[simp] theorem State.commandExchange_idx : s.commandExchange.idx = s.idx := rfl
@[simp] theorem State.commandExchange_wbuf : s.commandExchange.wbuf = s.wbuf := rfl
@[simp] theorem State.commandExchange_rbuf : s.commandExchange.rbuf = s.rbuf := rfl
@[simp] theorem State.commandExchange_stat : s.commandExchange.stat = s.received s.cmd := rfl
@[simp] theorem State.commandExchange_activity : s.commandExchange.activity = s.activity := rfl
@[simp] theorem State.commandExchange_trace : s.commandExchange.trace = s.trace ++ [.x s.cmd (s.received s.cmd)] := rfl
@[simp] theorem State.commandExchange_results : s.commandExchange.results = s.results := rfl
@[simp] theorem State.commandExchange_inputs : s.commandExchange.inputs = s.inputs := rfl
@[simp] theorem State.commandExchange_target : s.commandExchange.target = (s.exchanged s.cmd).target := rfl
@[simp] theorem State.commandExchange_draws : s.commandExchange.draws = (s.exchanged s.cmd).draws := rfl
@[simp] theorem State.commandExchange_params : s.commandExchange.params = s.params := rfl

@[simp] theorem State.dataExchange_csn : s.dataExchange.csn = s.csn := rfl
@[simp] theorem State.dataExchange_ce : s.dataExchange.ce = s.ce := rfl
@[simp] theorem State.dataExchange_phase : s.dataExchange.phase = if s.idx + 1 = s.len then .fin else .data := rfl
@[simp] theorem State.dataExchange_opk : s.dataExchange.opk = s.opk := rfl
@[simp] theorem State.dataExchange_cmd : s.dataExchange.cmd = s.cmd := rfl
@[simp] theorem State.dataExchange_len : s.dataExchange.len = s.len := rfl
@[simp] theorem State.dataExchange_idx : s.dataExchange.idx = s.idx + 1 := rfl
@[simp] theorem State.dataExchange_wbuf : s.dataExchange.wbuf = s.wbuf := rfl
@[simp] theorem State.dataExchange_rbuf : s.dataExchange.rbuf = if s.opk = .fr then s.rbuf ++ [s.received s.dataOut] else s.rbuf := rfl
@[simp] theorem State.dataExchange_stat : s.dataExchange.stat = s.stat := rfl
@[simp] theorem State.dataExchange_activity : s.dataExchange.activity = s.activity := rfl
@[simp] theorem State.dataExchange_trace : s.dataExchange.trace = s.trace ++ [.x s.dataOut (s.received s.dataOut)] := rfl
@[simp] theorem State.dataExchange_results : s.dataExchange.results = s.results := rfl
@[simp] theorem State.dataExchange_inputs : s.dataExchange.inputs = s.inputs := rfl
@[simp] theorem State.dataExchange_target : s.dataExchange.target = (s.exchanged s.dataOut).target := rfl
@[simp] theorem State.dataExchange_draws : s.dataExchange.draws = (s.exchanged s.dataOut).draws := rfl
@[simp] theorem State.dataExchange_params : s.dataExchange.params = s.params := rfl

@[simp] theorem State.endFrame_csn : s.endFrame.csn = .high := rfl
@[simp] theorem State.endFrame_ce : s.endFrame.ce = s.ce := rfl
@[simp] theorem State.endFrame_phase : s.endFrame.phase = .idle := rfl
@[simp] theorem State.endFrame_opk : s.endFrame.opk = s.opk := rfl
@[simp] theorem State.endFrame_cmd : s.endFrame.cmd = s.cmd := rfl
@[simp] theorem State.endFrame_len : s.endFrame.len = s.len := rfl
@[simp] theorem State.endFrame_idx : s.endFrame.idx = s.idx := rfl
@[simp] theorem State.endFrame_wbuf : s.endFrame.wbuf = s.wbuf := rfl
@[simp] theorem State.endFrame_rbuf : s.endFrame.rbuf = s.rbuf := rfl
@[simp] theorem State.endFrame_stat : s.endFrame.stat = s.stat := rfl
@[simp] theorem State.endFrame_activity : s.endFrame.activity = s.activity := rfl
@[simp] theorem State.endFrame_trace : s.endFrame.trace = s.trace ++ [.cs .high] := rfl
@[simp] theorem State.endFrame_results : s.endFrame.results = s.results := rfl
@[simp] theorem State.endFrame_inputs : s.endFrame.inputs = s.inputs := rfl
@[simp] theorem State.endFrame_target : s.endFrame.target = s.target.deselect s.params := rfl
@[simp] theorem State.endFrame_draws : s.endFrame.draws = s.draws := rfl
@[simp] theorem State.endFrame_params : s.endFrame.params = s.params := rfl

@[simp] theorem State.finish_csn (v : Result) : (s.finish v).csn = s.csn := rfl
@[simp] theorem State.finish_ce (v : Result) : (s.finish v).ce = s.ce := rfl
@[simp] theorem State.finish_phase (v : Result) : (s.finish v).phase = s.phase := rfl
@[simp] theorem State.finish_opk (v : Result) : (s.finish v).opk = s.opk := rfl
@[simp] theorem State.finish_cmd (v : Result) : (s.finish v).cmd = s.cmd := rfl
@[simp] theorem State.finish_len (v : Result) : (s.finish v).len = s.len := rfl
@[simp] theorem State.finish_idx (v : Result) : (s.finish v).idx = s.idx := rfl
@[simp] theorem State.finish_wbuf (v : Result) : (s.finish v).wbuf = s.wbuf := rfl
@[simp] theorem State.finish_rbuf (v : Result) : (s.finish v).rbuf = s.rbuf := rfl
@[simp] theorem State.finish_stat (v : Result) : (s.finish v).stat = s.stat := rfl
@[simp] theorem State.finish_activity (v : Result) : (s.finish v).activity = .idle := rfl
@[simp] theorem State.finish_trace (v : Result) : (s.finish v).trace = s.trace := rfl
@[simp] theorem State.finish_results (v : Result) : (s.finish v).results = s.results ++ [v] := rfl
@[simp] theorem State.finish_inputs (v : Result) : (s.finish v).inputs = s.inputs := rfl
@[simp] theorem State.finish_target (v : Result) : (s.finish v).target = s.target := rfl
@[simp] theorem State.finish_draws (v : Result) : (s.finish v).draws = s.draws := rfl
@[simp] theorem State.finish_params (v : Result) : (s.finish v).params = s.params := rfl

end Sys2Proof.Machine
end

