-- ==== Sys2Proof/Laws/Frame.lean ====
section
/-! SUPPORT. What the frame engine can do, said once: the frame as one action in closed form (40_register_access.md
R110), for every target and for a scripted one. -/

namespace Sys2Proof.Machine

/-- The bytes the remaining data exchanges of the frame in progress send (40_register_access.md R113). -/
def State.toSend (s : State) (n : Nat) : List Byte :=
  if s.opk = .fr then fillBytes s.params n else s.wbuf.drop s.idx

/-- One data exchange sends the first of the remaining bytes. -/
theorem State.toSend_succ (s : State) (n : Nat) (h : s.opk ≠ .fr → s.wbuf.length = s.idx + (n + 1)) :
    s.toSend (n + 1) = s.dataOut :: s.dataExchange.toSend n := by
  unfold State.toSend State.dataOut
  rw [State.dataExchange_opk, State.dataExchange_params, State.dataExchange_wbuf, State.dataExchange_idx]
  by_cases hk : s.opk = .fr
  · simp only [if_pos hk]; rfl
  · have hi : s.idx < s.wbuf.length := by have := h hk; omega
    simp only [if_neg hk]
    rw [List.drop_eq_getElem_cons hi, List.getD_eq_getElem _ _ hi]

/-- What a run of `n` data exchanges that were answered `ins` leaves: `RBUF`, `IDX`, `PHASE`, the trace, the target and
the free-value counter may change (40_register_access.md R113). -/
def State.afterData (s : State) (n : Nat) (ins : List Byte) (tgt : Target) (dr : Nat) : State :=
  { s with
    idx := s.idx + n
    rbuf := if s.opk = .fr then s.rbuf ++ ins else s.rbuf
    phase := (State.dataExchanges n s).phase
    trace := s.trace ++ (List.zip (s.toSend n) ins).map (fun p => .x p.1 p.2)
    target := tgt
    draws := dr }

/-- One data exchange before a run that is in closed form. -/
theorem State.afterData_dataExchange (s : State) (n : Nat) (ins : List Byte) (tgt : Target) (dr : Nat)
    (h : s.opk ≠ .fr → s.wbuf.length = s.idx + (n + 1)) :
    s.dataExchange.afterData n ins tgt dr =
      s.afterData (n + 1) (s.received s.dataOut :: ins) tgt dr := by
  simp only [State.afterData, State.toSend_succ s n h, State.dataExchange_csn, State.dataExchange_ce,
    State.dataExchange_opk, State.dataExchange_cmd, State.dataExchange_len, State.dataExchange_idx,
    State.dataExchange_wbuf, State.dataExchange_rbuf, State.dataExchange_stat, State.dataExchange_activity,
    State.dataExchange_trace, State.dataExchange_results, State.dataExchange_inputs, State.dataExchange_params,
    State.dataExchanges, List.zip_cons_cons, List.map_cons, List.append_assoc, List.singleton_append,
    State.mk.injEq, true_and, and_true]
  refine ⟨by omega, ?_⟩
  split <;> simp

/-- A run of data exchanges, whatever the target answers. -/
theorem State.dataExchanges_spec (n : Nat) (s : State) (h : s.opk ≠ .fr → s.wbuf.length = s.idx + n) :
    ∃ ins : List Byte, ∃ tgt dr, ins.length = n ∧ State.dataExchanges n s = s.afterData n ins tgt dr := by
  induction n generalizing s with
  | zero => exact ⟨[], s.target, s.draws, rfl, by simp [State.dataExchanges, State.afterData]⟩
  | succ n ih =>
    obtain ⟨ins, tgt, dr, hlen, heq⟩ := ih s.dataExchange (fun hk => by
      have := h (by simpa using hk); simp; omega)
    exact ⟨s.received s.dataOut :: ins, tgt, dr, by simp [hlen], by
      rw [State.dataExchanges, heq, State.afterData_dataExchange s n ins tgt dr h]⟩

/-- A run of data exchanges with a script that answers them all. -/
theorem State.dataExchanges_script (n : Nat) (s : State) (h : s.opk ≠ .fr → s.wbuf.length = s.idx + n)
    (ins rest : List Byte) (hlen : ins.length = n) (ht : s.target = .oracle (ins ++ rest)) :
    State.dataExchanges n s = s.afterData n ins (.oracle rest) s.draws := by
  induction n generalizing s ins with
  | zero =>
    obtain rfl := List.length_eq_zero_iff.1 hlen
    simp only [List.nil_append] at ht
    simp [State.dataExchanges, State.afterData, ← ht]
  | succ n ih =>
    obtain ⟨b, ins, rfl⟩ := List.exists_cons_of_length_eq_add_one hlen
    have hb : s.received s.dataOut = b := by simp [State.received, ht, Target.exchange]
    have hd : s.dataExchange.draws = s.draws := by simp [ht, Target.exchange]
    rw [State.dataExchanges, ih s.dataExchange (fun hk => by
      have := h (by simpa using hk); simp; omega) ins (by simpa using hlen) (by simp [ht, Target.exchange]),
      State.afterData_dataExchange s n ins _ _ h, hb, hd]

/-- From the end of the data exchanges to the end of the frame. -/
theorem State.frame_of_data (s : State) (r : FrameReq) (hr : r.shaped) (st : Byte) (ins : List Byte) (tgt : Target)
    (dr : Nat) (hlen : ins.length = r.len) (hst : (s.accept r).received r.command = st)
    (h : State.dataExchanges r.len (s.accept r).commandExchange = (s.accept r).commandExchange.afterData r.len ins tgt dr) :
    s.frame r = frameDone s r st ins (tgt.deselect s.params) dr := by
  have hs : List.zip ((s.accept r).commandExchange.toSend r.len) ins = List.zip (sentData s.params r) ins := by
    obtain ⟨kind, command, data, len⟩ := r
    cases kind
    · rfl
    · rfl
    · obtain rfl : len = 0 := (hr.2 rfl).1
      rw [List.length_eq_zero_iff.1 hlen, List.zip_nil_right, List.zip_nil_right]
  rw [State.frame, h]
  simp only [State.endFrame, State.releaseSelect, State.afterData, hs, frameDone, frameEvents, hst, State.mk.injEq,
    State.commandExchange_csn, State.commandExchange_ce, State.commandExchange_opk, State.commandExchange_cmd,
    State.commandExchange_len, State.commandExchange_idx, State.commandExchange_wbuf, State.commandExchange_rbuf,
    State.commandExchange_stat, State.commandExchange_activity, State.commandExchange_trace,
    State.commandExchange_results, State.commandExchange_inputs, State.commandExchange_params,
    State.accept_ce, State.accept_opk, State.accept_cmd, State.accept_len, State.accept_idx, State.accept_wbuf,
    State.accept_rbuf, State.accept_activity, State.accept_trace, State.accept_results, State.accept_inputs,
    State.accept_params, Nat.zero_add, List.nil_append, List.append_assoc, List.cons_append, true_and, and_true]
  rfl

/-- The data of a frame request is as long as the frame, but for a read frame. -/
theorem FrameReq.shaped.data_length {r : FrameReq} (hr : r.shaped) (h : r.kind ≠ .fr) : r.data.length = r.len := by
  obtain ⟨kind, command, data, len⟩ := r
  cases kind
  · exact absurd rfl h
  · exact hr.1 rfl
  · obtain ⟨h1, h2⟩ := hr.2 rfl
    simp only at h1 h2 ⊢
    rw [h1, h2, List.length_nil]

/-- The frame as one action, whatever the target answers (40_register_access.md R110). -/
theorem State.frame_spec (s : State) (r : FrameReq) (hr : r.shaped) :
    ∃ st ins tgt dr, ins.length = r.len ∧ s.frame r = frameDone s r st ins tgt dr := by
  obtain ⟨ins, tgt, dr, hlen, h⟩ := State.dataExchanges_spec r.len (s.accept r).commandExchange
    (fun hk => by simpa using hr.data_length hk)
  exact ⟨_, ins, _, dr, hlen, State.frame_of_data s r hr _ ins tgt dr hlen rfl h⟩

/-- The frame as one action with a script that answers every exchange: for every sequence of answers
(20_memory.md R70). -/
theorem State.frame_script (s : State) (r : FrameReq) (hr : r.shaped) (st : Byte) (ins rest : List Byte)
    (hlen : ins.length = r.len) (ht : s.target = .oracle (st :: ins ++ rest)) :
    s.frame r = frameDone s r st ins (.oracle rest) s.draws := by
  have ha : (s.accept r).target = .oracle (st :: (ins ++ rest)) := by simp [ht, Target.select]
  have hst : (s.accept r).received r.command = st := by rw [State.received, ha]; rfl
  have hc : (s.accept r).commandExchange.target = .oracle (ins ++ rest) := by
    simp [ht, Target.exchange, Target.select]
  have hd : (s.accept r).commandExchange.draws = s.draws := by simp [ht, Target.exchange, Target.select]
  have h := State.dataExchanges_script r.len (s.accept r).commandExchange
    (fun hk => by simpa using hr.data_length hk) ins rest hlen hc
  rw [hd] at h
  exact State.frame_of_data s r hr st ins _ _ hlen hst h

/-- A one-frame operation as one action, whatever the target answers. -/
theorem State.runFrame_spec (s : State) (r : FrameReq) (ret : Return) (hr : r.shaped) :
    ∃ st ins tgt dr, ins.length = r.len ∧
      s.runFrame r ret = frameNext s r st ins (ret.value st (if r.kind = .fr then ins else [])) tgt dr := by
  obtain ⟨st, ins, tgt, dr, hlen, h⟩ := s.frame_spec r hr
  exact ⟨st, ins, tgt, dr, hlen, by rw [State.runFrame, h]; rfl⟩

/-- A one-frame operation as one action with a script that answers every exchange. -/
theorem State.runFrame_script (s : State) (r : FrameReq) (ret : Return) (hr : r.shaped) (st : Byte)
    (ins rest : List Byte) (hlen : ins.length = r.len) (ht : s.target = .oracle (st :: ins ++ rest)) :
    s.runFrame r ret =
      frameNext s r st ins (ret.value st (if r.kind = .fr then ins else [])) (.oracle rest) s.draws := by
  rw [State.runFrame, s.frame_script r hr st ins rest hlen ht]; rfl

/-- An idle block carries out an operation whose plan is one frame. -/
theorem State.execPlan_frame (s : State) (h : s.Idle) (r : FrameReq) (ret : Return) :
    s.execPlan (.ok (.frame r ret)) = .next (s.runFrame r ret) := by
  simp [State.execPlan, State.busy, h.1, h.2]

/-- An idle block refuses a request with the reason its plan gives. -/
theorem State.execPlan_error (s : State) (h : s.Idle) (r : Refusal) : s.execPlan (.error r) = .refused r := by
  simp [State.execPlan, State.busy, h.1, h.2]

/-- A busy block gives no request a meaning (70_reset_and_hazards.md R219). -/
theorem State.execPlan_busy (s : State) (p : Except Refusal Plan) (h : s.busy = true) :
    s.execPlan p = .refused .requestWhileBusy := by
  simp [State.execPlan, h]

end Sys2Proof.Machine
end

