-- ==== Sys2Proof/Laws/Step.lean ====
section
/-! SUPPORT. What a step can do, said once; how the scan of a trace composes. -/

namespace Sys2Proof.Machine

/-- Every instruction's meaning is its plan carried out. -/
theorem exec_eq_execPlan (i : Instr) (s : State) : exec i s = s.execPlan (planOf s.params i) := by
  cases i <;> rfl

/-- What carrying out a plan can do. -/
theorem State.execPlan_cases {s t : State} {p : Except Refusal Plan} (h : s.execPlan p = .next t) :
    s.busy = false ∧
      ((∃ r ret, p = .ok (.frame r ret) ∧ t = s.runFrame r ret) ∨ (p = .ok .pulse ∧ t = s.runPulse) ∨
        (p = .ok .drain ∧ t = s.runDrain)) := by
  unfold State.execPlan at h
  split at h
  · cases h
  · refine ⟨Bool.eq_false_of_not_eq_true ‹¬s.busy = true›, ?_⟩
    split at h <;> cases h
    · exact .inl ⟨_, _, rfl, rfl⟩
    · exact .inr (.inl ⟨rfl, rfl⟩)
    · exact .inr (.inr ⟨rfl, rfl⟩)

/-- What accepting a plan can do. -/
theorem State.startPlan_cases {s t : State} {p : Except Refusal Plan} (h : s.startPlan p = .next t) :
    s.busy = false ∧
      ((∃ r ret, p = .ok (.frame r ret) ∧ t = { s.accept r with activity := .frame ret }) ∨
        (p = .ok .pulse ∧ t = { s.setEnable .high with activity := .pulse .raised }) ∨
        (p = .ok .drain ∧ t = { s.setEnable .high with activity := .drain .raised })) := by
  unfold State.startPlan at h
  split at h
  · cases h
  · refine ⟨Bool.eq_false_of_not_eq_true ‹¬s.busy = true›, ?_⟩
    split at h <;> cases h
    · exact .inl ⟨_, _, rfl, rfl⟩
    · exact .inr (.inl ⟨rfl, rfl⟩)
    · exact .inr (.inr ⟨rfl, rfl⟩)

/-- What a small step can do, by `PHASE` and operation. -/
theorem State.smallStep_cases {s t : State} (h : s.smallStep = .next t) :
    (s.phase = .cmd ∧ t = s.commandExchange) ∨
    (s.phase = .data ∧ s.dataEnabled = true ∧ t = s.dataExchange) ∨
    (s.phase = .fin ∧ ∃ ret, s.activity = .frame ret ∧ t = s.endFrame.finish (ret.value s.stat s.rbuf)) ∨
    (s.phase = .fin ∧ s.activity = .drain .readFifo ∧
      t = { s.endFrame with activity := .drain (.readStatus (txEmptyOf s.params (s.rbuf.headD 0))) }) ∨
    (s.phase = .fin ∧ ∃ e, s.activity = .drain (.readStatus e) ∧
      t = { s.endFrame with activity := .drain (if e || maxRtOf s.params (s.rbuf.headD 0) then .lower else .readFifo) }) ∨
    (s.phase = .idle ∧ s.activity = .idle ∧ t = s) ∨
    (s.phase = .idle ∧ s.activity = .pulse .raised ∧
      t = { s.delay s.params.tCeHoldUs with activity := .pulse .held }) ∨
    (s.phase = .idle ∧ s.activity = .pulse .held ∧ t = (s.setEnable .low).finish .nothing) ∨
    (s.phase = .idle ∧ s.activity = .drain .raised ∧
      t = { s.delay s.params.tCeHoldUs with activity := .drain .readFifo }) ∨
    (s.phase = .idle ∧ s.activity = .drain .readFifo ∧ t = s.accept (readOne s.params s.params.regFifoStatus)) ∨
    (s.phase = .idle ∧ (∃ e, s.activity = .drain (.readStatus e)) ∧
      t = s.accept (readOne s.params s.params.regStatus)) ∨
    (s.phase = .idle ∧ s.activity = .drain .lower ∧ t = s.endDrain) := by
  unfold State.smallStep at h
  split at h
  · unfold State.lineStep at h
    split at h <;> cases h <;> simp_all
  · cases h; simp_all
  · split at h <;> cases h; simp_all
  · unfold State.handOver at h
    rw [State.endFrame_activity] at h
    split at h <;> cases h <;> simp_all

/-- What a step can do: a reset, a small step, or an idle block taking what comes next. -/
theorem step_cases {s t : State} (h : step s = .next t) :
    (∃ rest, s.inputs = .reset :: rest ∧ t = ({ s with inputs := rest } : State).resetEvent) ∨
    (∃ rest, s.inputs = .quiet :: rest ∧ ({ s with inputs := rest } : State).smallStep = .next t) ∨
    s.smallStep = .next t ∨
    (s.busy = false ∧ ∃ i rest, s.inputs = .call i :: rest ∧ exec i { s with inputs := rest } = .next t) ∨
    (s.busy = false ∧ ∃ i rest, s.inputs = .start i :: rest ∧
      ({ s with inputs := rest } : State).startInstr i = .next t) ∨
    (s.busy = false ∧ ∃ us rest, s.inputs = .delay us :: rest ∧ t = ({ s with inputs := rest } : State).delay us) := by
  unfold step at h
  split at h
  · cases h; exact .inl ⟨_, ‹_›, rfl⟩
  · exact .inr (.inl ⟨_, ‹_›, h⟩)
  · exact .inr (.inr (.inl h))
  · split at h
    · exact .inr (.inr (.inl h))
    · exact .inr (.inr (.inr (.inl ⟨Bool.eq_false_of_not_eq_true ‹¬s.busy = true›, _, _, ‹_›, h⟩)))
  · split at h
    · exact .inr (.inr (.inl h))
    · exact .inr (.inr (.inr (.inr (.inl ⟨Bool.eq_false_of_not_eq_true ‹¬s.busy = true›, _, _, ‹_›, h⟩))))
  · split at h
    · exact .inr (.inr (.inl h))
    · cases h; exact .inr (.inr (.inr (.inr (.inr ⟨Bool.eq_false_of_not_eq_true ‹¬s.busy = true›, _, _, ‹_›, rfl⟩))))
  · split at h
    · exact .inr (.inr (.inl h))
    · cases h

/-- The scan of a trace composes. -/
theorem scan_append (l : Level × Level) (a b : List Event) : scan l (a ++ b) = (scan l a).bind (scan · b) := by
  induction a generalizing l with
  | nil => rfl
  | cons e rest ih =>
    simp only [List.cons_append, scan]
    split
    · exact ih _
    · rfl

/-- A whole frame is allowed when chip-select is high, and leaves it so. -/
theorem scan_frameEvents (ce : Level) (c st : Byte) (exchanges : List (Byte × Byte)) :
    scan (.high, ce) (frameEvents c st exchanges) = some (.high, ce) := by
  have h : ∀ l : List (Byte × Byte), scan (.low, ce) (l.map (fun p => .x p.1 p.2)) = some (.low, ce) := by
    intro l
    induction l with
    | nil => rfl
    | cons p rest ih => simpa [scan, scanEvent] using ih
  simp [frameEvents, scan, scanEvent, scan_append, h]

/-- A check that lets through what meets it. -/
theorem guard_ok_iff {α ε : Type} {c : Prop} [Decidable c] {x : Except ε α} {e : ε} {a : α} :
    (if c then x else .error e) = .ok a ↔ c ∧ x = .ok a := by
  split <;> simp_all

/-- The same check, written the other way round. -/
theorem unless_ok_iff {α ε : Type} {c : Prop} [Decidable c] {x : Except ε α} {e : ε} {a : α} :
    (if ¬c then .error e else x) = .ok a ↔ c ∧ x = .ok a := by
  split <;> simp_all

/-- The plan of an operation that is carried out. -/
theorem ok_eq_ok_iff {p q : Plan} : (Except.ok p : Except Refusal Plan) = .ok q ↔ q = p := by
  rw [Except.ok.injEq]; exact eq_comm

/-- When a one-frame operation is carried out, and what it then is. -/
theorem framePlan_ok_iff {P : Params} {r : FrameReq} {ret : Return} {p : Plan} :
    framePlan P r ret = .ok p ↔ LengthLegal P r.len ∧ p = .frame r ret := by
  rw [framePlan, guard_ok_iff, ok_eq_ok_iff]

/-- The same for a one-frame operation on a register. -/
theorem registerPlan_ok_iff {P : Params} {addr : Byte} {r : FrameReq} {ret : Return} {p : Plan} :
    registerPlan P addr r ret = .ok p ↔ AddrLegal P addr ∧ LengthLegal P r.len ∧ p = .frame r ret := by
  rw [registerPlan, guard_ok_iff, framePlan_ok_iff]

/-- When LDTX is carried out. -/
theorem planLdtx_ok_iff {P : Params} {w : List Byte} {p : Plan} :
    planLdtx P w = .ok p ↔ PayloadLenLegal P ∧ w.length = P.payloadLen ∧ LengthLegal P P.payloadLen ∧
      p = .frame ⟨.fw, cmdLoadPayload P, w, P.payloadLen⟩ .status := by
  rw [planLdtx, unless_ok_iff, guard_ok_iff, framePlan_ok_iff]

/-- When CLRIRQ is carried out. -/
theorem planClrirq_ok_iff {P : Params} {p : Plan} :
    planClrirq P = .ok p ↔ IrqMaskLegal P ∧ AddrLegal P P.regStatus ∧ LengthLegal P 1 ∧
      p = .frame ⟨.fw, cmdWrite P P.regStatus, [P.irqClearMask], 1⟩ .nothing := by
  rw [planClrirq, guard_ok_iff, registerPlan_ok_iff]

/-- When TXDRAIN is carried out. -/
theorem planTxdrain_ok_iff {P : Params} {p : Plan} : planTxdrain P = .ok p ↔ txdrainLegal P = true ∧ p = .drain := by
  rw [planTxdrain, unless_ok_iff, unless_ok_iff, unless_ok_iff, unless_ok_iff, unless_ok_iff, ok_eq_ok_iff]
  simp only [txdrainLegal, decide_eq_true_eq, and_assoc]

/-- Every frame an operation plans is shaped and no longer than `LEN_MAX`. -/
theorem planOf_frame {P : Params} {i : Instr} {r : FrameReq} {ret : Return} (h : planOf P i = .ok (.frame r ret)) :
    r.shaped ∧ r.len ≤ P.lenMax := by
  cases i <;>
    simp only [planOf, planRdreg, planRdbuf, planWrreg, planWrbuf, planCmd, planRdrx, planFltx, planFlrx, planRxpipe,
      planTxpulse, framePlan_ok_iff, registerPlan_ok_iff, planLdtx_ok_iff, planClrirq_ok_iff, planTxdrain_ok_iff,
      Plan.frame.injEq, Except.ok.injEq, reduceCtorEq, and_false] at h
  case rxpipe =>
    split at h
    · obtain ⟨-, h2, rfl, -⟩ := registerPlan_ok_iff.1 h |>.imp_right (And.imp_right Plan.frame.inj)
      exact ⟨⟨by simp, by simp⟩, h2.2⟩
    · obtain ⟨h2, rfl, -⟩ := framePlan_ok_iff.1 h |>.imp_right Plan.frame.inj
      exact ⟨⟨by simp, by simp⟩, h2.2⟩
  all_goals simp_all [FrameReq.shaped]

/-- Only TXPULSE plans a pulse. -/
theorem planOf_pulse {P : Params} {i : Instr} (h : planOf P i = .ok .pulse) : i = .txpulse := by
  cases i <;>
    simp only [planOf, planRdreg, planRdbuf, planWrreg, planWrbuf, planCmd, planRdrx, planFltx, planFlrx, planRxpipe,
      framePlan_ok_iff, registerPlan_ok_iff, planLdtx_ok_iff, planClrirq_ok_iff, planTxdrain_ok_iff, reduceCtorEq,
      and_false] at h
  · split at h <;> simp [framePlan_ok_iff, registerPlan_ok_iff] at h
  · rfl

/-- Only TXDRAIN plans a drain, and only under a configuration it can poll with. -/
theorem planOf_drain {P : Params} {i : Instr} (h : planOf P i = .ok .drain) :
    i = .txdrain ∧ txdrainLegal P = true := by
  cases i <;>
    simp only [planOf, planRdreg, planRdbuf, planWrreg, planWrbuf, planCmd, planRdrx, planFltx, planFlrx, planRxpipe,
      planTxpulse, framePlan_ok_iff, registerPlan_ok_iff, planLdtx_ok_iff, planClrirq_ok_iff, planTxdrain_ok_iff,
      Except.ok.injEq, reduceCtorEq, and_false, and_true] at h
  · split at h <;> simp [framePlan_ok_iff, registerPlan_ok_iff] at h
  · exact ⟨rfl, h⟩

/-- TXDRAIN's one-byte reads are admitted wherever it can poll. -/
theorem one_le_lenMax_of_txdrainLegal {P : Params} (h : txdrainLegal P = true) : 1 ≤ P.lenMax := by
  simp only [txdrainLegal, decide_eq_true_eq] at h
  exact h.2.2.1.2

end Sys2Proof.Machine
end

