-- ==== Sys2Proof/Laws/Run.lean ====
section
/-! SUPPORT. Runs of several steps: how they compose, and one whole frame in small steps (40_register_access.md R115). -/

namespace Sys2Proof.Machine

/-- A block that is not busy is idle. -/
theorem State.idle_of_not_busy {s : State} (h : s.busy = false) : s.Idle := by simpa [State.busy] using h

/-- A one-register read is a shaped frame. -/
theorem readOne_shaped (P : Params) (addr : Byte) : (readOne P addr).shaped :=
  ⟨by simp [readOne], by simp [readOne]⟩

/-- While an operation is in progress and what comes next waits, a step is a small step. -/
theorem step_waits {s : State} (hb : s.busy = true) (hw : waits s.inputs = true) : step s = s.smallStep := by
  unfold step
  split <;> simp_all [waits]

/-- Runs compose. -/
theorem steps_add (a b : Nat) (s t : State) (h : steps a s = .next t) : steps (a + b) s = steps b t := by
  induction a generalizing s with
  | zero => cases h; simp
  | succ a ih =>
    rw [Nat.add_right_comm]
    simp only [steps] at h ⊢
    split at h
    · exact ih _ h
    · cases h
    · cases h

/-- A run of one step. -/
theorem steps_one (s : State) : steps 1 s = step s := by
  simp only [steps]
  split <;> simp_all

/-- A run whose first step is known. -/
theorem steps_succ_of {s t : State} {n : Nat} (h : step s = .next t) : steps (n + 1) s = steps n t := by
  simp [steps, h]

/-- Between frames a small step is the operation's next line event. -/
theorem State.smallStep_idle {s : State} (h : s.phase = .idle) : s.smallStep = s.lineStep := by
  rw [State.smallStep, h]

/-- At the end of a frame a small step ends it and hands over. -/
theorem State.smallStep_fin {s : State} (h : s.phase = .fin) : s.smallStep = s.endFrame.handOver := by
  rw [State.smallStep, h]

/-- The data exchanges of a frame in small steps: one step each, up to phase END (40_register_access.md R113). -/
theorem steps_data (n : Nat) (s : State) (hp : s.phase = if 0 < n then .data else .fin) (hl : s.len = s.idx + n)
    (hk : s.opk ≠ .fr → s.opk = .fw ∧ s.wbuf.length = s.idx + n ∨ n = 0) (hw : waits s.inputs = true) :
    steps n s = .next (State.dataExchanges n s) ∧ (State.dataExchanges n s).phase = .fin := by
  induction n generalizing s with
  | zero => exact ⟨rfl, by simpa [State.dataExchanges] using hp⟩
  | succ n ih =>
    have hb : s.busy = true := by simp [State.busy, hp]
    have hd : s.dataEnabled = true := by
      simp only [State.dataEnabled, decide_eq_true_eq]
      refine ⟨by omega, ?_⟩
      by_cases h : s.opk = .fr
      · exact .inl h
      · rcases hk h with ⟨h1, h2⟩ | h1
        · exact .inr ⟨h1, by omega⟩
        · omega
    have hst : step s = .next s.dataExchange := by
      rw [step_waits hb hw]
      simp [State.smallStep, hp, hd]
    rw [steps_succ_of hst]
    refine ih s.dataExchange ?_ (by simp; omega) (fun h => ?_) (by simpa using hw)
    · simp only [State.dataExchange_phase]
      by_cases h : 0 < n
      · rw [if_neg (by omega), if_pos h]
      · rw [if_pos (by omega), if_neg h]
    · rcases hk (by simpa using h) with ⟨h1, h2⟩ | h1
      · exact .inl ⟨by simpa using h1, by simp; omega⟩
      · omega

/-- The data exchanges leave the inputs alone. -/
theorem State.dataExchanges_inputs (n : Nat) (s : State) : (State.dataExchanges n s).inputs = s.inputs := by
  induction n generalizing s with
  | zero => rfl
  | succ n ih => exact ih s.dataExchange

/-- The data exchanges do not look at which operation is in progress. -/
theorem State.dataExchanges_activity (n : Nat) (s : State) (a : Activity) :
    State.dataExchanges n { s with activity := a } = { State.dataExchanges n s with activity := a } := by
  induction n generalizing s with
  | zero => rfl
  | succ n ih => exact ih s.dataExchange

/-- A whole frame in small steps, from the accepted request to the hand-over of its result: S2, `n` times S3, S4
(40_register_access.md R112 to R115). -/
theorem steps_frame (s : State) (r : FrameReq) (hr : r.shaped) (a : Activity) (hw : waits s.inputs = true) :
    steps (r.len + 2) { s.accept r with activity := a } = ({ s.frame r with activity := a } : State).handOver := by
  have h1 : step { s.accept r with activity := a } = .next { (s.accept r).commandExchange with activity := a } := by
    rw [step_waits (by simp [State.busy]) (by simpa using hw)]
    rfl
  rw [show r.len + 2 = (r.len + 1) + 1 from rfl, steps_succ_of h1]
  obtain ⟨h2, h3⟩ := steps_data r.len { (s.accept r).commandExchange with activity := a } (by simp; rfl) (by simp)
    (fun hk => by
      obtain ⟨kind, c, w, len⟩ := r
      cases kind
      · exact absurd rfl hk
      · exact .inl ⟨rfl, by simpa using hr.1 rfl⟩
      · exact .inr (hr.2 rfl).1) (by simpa using hw)
  rw [steps_add r.len 1 _ _ h2, steps_one]
  rw [State.dataExchanges_activity] at h3 ⊢
  have h3' : (State.dataExchanges r.len (s.accept r).commandExchange).phase = .fin := h3
  rw [step_waits (by simp [State.busy, h3']) (by simpa [State.dataExchanges_inputs] using hw)]
  exact State.smallStep_fin (s := { State.dataExchanges r.len (s.accept r).commandExchange with activity := a }) h3'

/-- A well-formed request has a plan. -/
theorem planOf_of_wellFormed {P : Params} {i : Instr} (h : wellFormed P i = true) : ∃ p, planOf P i = .ok p := by
  cases i <;>
    simp only [wellFormed, decide_eq_true_eq, planOf, planRdreg, planRdbuf, planWrreg, planWrbuf, planCmd, planRdrx, planFltx,
      planFlrx, planTxpulse, framePlan_ok_iff, registerPlan_ok_iff, planLdtx_ok_iff, planClrirq_ok_iff,
      planTxdrain_ok_iff] at h ⊢
  case rxpipe =>
    unfold planRxpipe
    cases hsrc : P.statusSource <;>
      simp only [hsrc, decide_eq_true_eq] at h <;> simp only [framePlan_ok_iff, registerPlan_ok_iff]
    · exact ⟨_, h.1, h.2, rfl⟩
    · exact ⟨_, h, rfl⟩
  case ldtx w => exact ⟨_, h.1, h.2.1, h.2.1 ▸ h.2.2, rfl⟩
  case clrirq => exact ⟨_, h.2.2, h.1, h.2.1, rfl⟩
  case txpulse => exact ⟨_, rfl⟩
  all_goals first | exact ⟨_, h.1, h.2, rfl⟩ | exact ⟨_, h, rfl⟩

/-- How many small steps an operation of one frame takes (40_register_access.md R115). -/
theorem smallSteps_frame {P : Params} {i : Instr} {r : FrameReq} {ret : Return}
    (h : planOf P i = .ok (.frame r ret)) : smallSteps P i = r.len + 3 := by
  cases i <;>
    simp only [planOf, planRdreg, planRdbuf, planWrreg, planWrbuf, planCmd, planRdrx, planFltx, planFlrx, planTxpulse,
      framePlan_ok_iff, registerPlan_ok_iff, planLdtx_ok_iff, planClrirq_ok_iff, planTxdrain_ok_iff, Plan.frame.injEq,
      Except.ok.injEq, reduceCtorEq, and_false] at h
  case rxpipe =>
    unfold planRxpipe at h
    unfold smallSteps
    split at h <;> simp only [framePlan_ok_iff, registerPlan_ok_iff, Plan.frame.injEq] at h <;> simp_all
  all_goals simp_all [smallSteps]

end Sys2Proof.Machine
end

