-- ==== Sys2Proof/Laws/Drain.lean ====
section
/-! SUPPORT. What a poll of TXDRAIN and TXDRAIN up to its first exit test can do, for every target and for a scripted one
(43_chip_enable_ops.md R162, R163). -/

namespace Sys2Proof.Machine

/-- One whole poll, whatever the target answers: two frames of one byte. -/
theorem State.poll_spec (s : State) : ∃ st1 f st2 v tgt dr,
    s.poll = frameDone (frameDone s (readOne s.params s.params.regFifoStatus) st1 [f] tgt dr)
      (readOne s.params s.params.regStatus) st2 [v] s.poll.target s.poll.draws ∧
    s.pollEmpty = txEmptyOf s.params f ∧ s.pollMaxRt = maxRtOf s.params v := by
  obtain ⟨st1, i1, t1, d1, h1, e1⟩ := s.frame_spec (readOne s.params s.params.regFifoStatus) (readOne_shaped _ _)
  obtain ⟨st2, i2, t2, d2, h2, e2⟩ := s.pollFifo.frame_spec (readOne s.params s.params.regStatus) (readOne_shaped _ _)
  obtain ⟨f, rfl⟩ := List.length_eq_one_iff.1 h1
  obtain ⟨v, rfl⟩ := List.length_eq_one_iff.1 h2
  have e3 : s.pollFifo = frameDone s (readOne s.params s.params.regFifoStatus) st1 [f] t1 d1 := e1
  have e4 : s.poll = frameDone s.pollFifo (readOne s.params s.params.regStatus) st2 [v] t2 d2 := e2
  refine ⟨st1, f, st2, v, t1, d1, ?_, ?_, ?_⟩
  · rw [e4, e3]; rfl
  · rw [State.pollEmpty, e3]; rfl
  · rw [State.pollMaxRt, e4]; rfl

/-- One whole poll with a script that answers its four exchanges. -/
theorem State.poll_script (s : State) (st1 f st2 v : Byte) (rest : List Byte)
    (ht : s.target = .oracle (st1 :: f :: st2 :: v :: rest)) :
    s.poll = frameDone (frameDone s (readOne s.params s.params.regFifoStatus) st1 [f] (.oracle (st2 :: v :: rest)) s.draws)
      (readOne s.params s.params.regStatus) st2 [v] (.oracle rest) s.draws ∧
    s.pollEmpty = txEmptyOf s.params f ∧ s.pollMaxRt = maxRtOf s.params v := by
  have e3 : s.pollFifo =
      frameDone s (readOne s.params s.params.regFifoStatus) st1 [f] (.oracle (st2 :: v :: rest)) s.draws :=
    s.frame_script _ (readOne_shaped _ _) st1 [f] (st2 :: v :: rest) rfl ht
  have e4 : s.poll = frameDone s.pollFifo (readOne s.params s.params.regStatus) st2 [v] (.oracle rest) s.draws := by
    have := s.pollFifo.frame_script (readOne s.params s.params.regStatus) (readOne_shaped _ _) st2 [v] rest rfl
      (by rw [e3]; rfl)
    rw [State.poll, e3] at *
    exact this
  refine ⟨by rw [e4, e3], ?_, ?_⟩
  · rw [State.pollEmpty, e3]; rfl
  · rw [State.pollMaxRt, e4]; rfl

/-- TXDRAIN up to its first exit test, from what its poll did. -/
theorem State.runDrain_of_poll (s : State) (st1 f st2 v : Byte) (tgt : Target) (dr : Nat) (tgt2 : Target) (dr2 : Nat)
    (h : s.raiseDrain.poll =
      frameDone (frameDone s.raiseDrain (readOne s.params s.params.regFifoStatus) st1 [f] tgt dr)
        (readOne s.params s.params.regStatus) st2 [v] tgt2 dr2)
    (he : s.raiseDrain.pollEmpty = txEmptyOf s.params f) (hm : s.raiseDrain.pollMaxRt = maxRtOf s.params v) :
    s.runDrain = drainNext s st1 f st2 v tgt2 dr2 := by
  unfold State.runDrain
  rw [he, hm]
  unfold drainNext exitTest
  by_cases hq : (txEmptyOf s.params f || maxRtOf s.params v) = true
  · simp only [hq, if_true]
    rw [h]
    simp [State.endDrain, State.finish, State.setEnable, frameDone, readOne, State.raiseDrain, State.delay, State.emit,
      pollEvents, sentData, fillBytes]
  · simp only [Bool.not_eq_true] at hq
    simp only [hq]
    rw [h]
    simp [State.setEnable, frameDone, readOne, State.raiseDrain, State.delay, State.emit, pollEvents, sentData, fillBytes]

/-- TXDRAIN up to its first exit test, whatever the target answers. -/
theorem State.runDrain_spec (s : State) : ∃ st1 f st2 v tgt dr, s.runDrain = drainNext s st1 f st2 v tgt dr := by
  obtain ⟨st1, f, st2, v, tgt, dr, h, he, hm⟩ := s.raiseDrain.poll_spec
  exact ⟨st1, f, st2, v, _, _, s.runDrain_of_poll st1 f st2 v tgt dr _ _ h he hm⟩

/-- An idle block carries out TXDRAIN when it can poll. -/
theorem exec_txdrain (s : State) (hs : s.Idle) (h : txdrainLegal s.params = true) : exec .txdrain s = .next s.runDrain := by
  have hp : planTxdrain s.params = .ok .drain := planTxdrain_ok_iff.2 ⟨h, rfl⟩
  simp [exec, execTxdrain, hp, State.execPlan, State.busy, hs.1, hs.2]

end Sys2Proof.Machine
end

