-- ==== Sys2Proof/Laws/Encoding.lean ====
section
/-! SUPPORT. Command bytes taken apart and put together (30_encoding.md R85, R86), and the bits of the status byte. -/

namespace Sys2Proof.Machine

/-- A base outside the mask joined with an address inside it: both come back (30_encoding.md R85). -/
theorem class_and_field_of_or (base mask a : Byte) (h : base &&& mask = 0) (ha : a &&& ~~~mask = 0) :
    (base ||| a) &&& ~~~mask = base ∧ (base ||| a) &&& mask = a := by
  have e1 := fun i (hi : i < 8) => congrArg (fun v => v[i]'hi) h
  have e2 := fun i (hi : i < 8) => congrArg (fun v => v[i]'hi) ha
  constructor <;> ext i hi <;> have e1 := e1 i hi <;> have e2 := e2 i hi <;> simp at e1 e2 ⊢ <;>
    cases hb : base[i] <;> cases hm : mask[i] <;> cases hc : a[i] <;> simp_all

/-- A byte is its bits outside the mask joined with its bits inside it (30_encoding.md R85). -/
theorem or_of_class_and_field (base mask v : Byte) (h : v &&& ~~~mask = base) :
    base ||| (v &&& mask) = v ∧ (v &&& mask) &&& ~~~mask = 0 := by
  subst h
  constructor
  · ext i hi; simp; cases v[i] <;> cases mask[i] <;> rfl
  · ext i hi; simp

/-- A byte is a read-register command of the address `a` exactly if `a` is legal and it is `cmdRead a`
(30_encoding.md R85, R86). -/
theorem isCmdRead_iff {P : Params} (h : P.cmdRRegister &&& P.regAddrMask = 0) (c a : Byte) :
    (IsCmdRead P c ∧ a = addrField P c) ↔ (AddrLegal P a ∧ c = cmdRead P a) := by
  constructor
  · rintro ⟨h1, rfl⟩
    have := or_of_class_and_field P.cmdRRegister P.regAddrMask c h1
    exact ⟨this.2, this.1.symm⟩
  · rintro ⟨h1, rfl⟩
    have := class_and_field_of_or P.cmdRRegister P.regAddrMask a h h1
    exact ⟨this.1, this.2.symm⟩

/-- The same for a write-register command. -/
theorem isCmdWrite_iff {P : Params} (h : P.cmdWRegister &&& P.regAddrMask = 0) (c a : Byte) :
    (IsCmdWrite P c ∧ a = addrField P c) ↔ (AddrLegal P a ∧ c = cmdWrite P a) := by
  constructor
  · rintro ⟨h1, rfl⟩
    have := or_of_class_and_field P.cmdWRegister P.regAddrMask c h1
    exact ⟨this.2, this.1.symm⟩
  · rintro ⟨h1, rfl⟩
    have := class_and_field_of_or P.cmdWRegister P.regAddrMask a h h1
    exact ⟨this.1, this.2.symm⟩

/-- A row of the decoder matches or not. -/
theorem mem_row {hit : Bool} {i j : Instr} : i ∈ row hit j ↔ hit = true ∧ i = j := by
  unfold row; split <;> simp_all

end Sys2Proof.Machine
end

