-- ==== Sys2Proof/Laws/PerInstr.lean ====
section
/-! SUPPORT. Per instruction: the encoding matches the instruction's own row of spec/opcode_table.json. -/

namespace Sys2Proof.Laws.TablePattern

open Sys2Proof Sys2Proof.Machine

/-- `mask` and `match` of each row of spec/opcode_table.json (30_encoding.md table E2); TXPULSE's row has none. -/
def pattern : Instr → Option (Byte × Byte)
  | .rdreg _ => some (0xE0, 0x00)
  | .rdbuf _ _ => some (0xE0, 0x00)
  | .wrreg _ _ => some (0xE0, 0x20)
  | .wrbuf _ _ => some (0xE0, 0x20)
  | .cmd _ => some (0x00, 0x00)
  | .ldtx _ => some (0xEF, 0xA0)
  | .rdrx _ => some (0xFF, 0x61)
  | .fltx => some (0xFF, 0xE1)
  | .flrx => some (0xFF, 0xE2)
  | .rxpipe => some (0xFF, 0x07)
  | .clrirq => some (0xFF, 0x27)
  | .txpulse => none
  | .txdrain => some (0xFF, 0x17)

/-- Under the default configuration the first command byte of a well-formed instruction's bus word matches the
instruction's row; TXPULSE "emits no frame" (30_encoding.md R95). -/
def Statement (i : Instr) : Prop :=
  wellFormed defaultParams i = true →
    match pattern i with
    | none => (encode defaultParams i).frames = []
    | some (mask, value) => ∃ c ds rest, (encode defaultParams i).frames = (c :: ds) :: rest ∧ c &&& mask = value

/-- The class bits of a read command of a legal address. -/
theorem read_class : ∀ a : Byte, AddrLegal defaultParams a → cmdRead defaultParams a &&& 0xE0 = 0x00 := by decide

/-- The class bits of a write command of a legal address. -/
theorem write_class : ∀ a : Byte, AddrLegal defaultParams a → cmdWrite defaultParams a &&& 0xE0 = 0x20 := by decide

theorem rdreg (addr : Byte) : Statement (.rdreg addr) := fun h =>
  ⟨_, _, _, rfl, read_class addr (by simp only [wellFormed, decide_eq_true_eq] at h; exact h.1)⟩

theorem rdbuf (addr : Byte) (n : Nat) : Statement (.rdbuf addr n) := fun h =>
  ⟨_, _, _, rfl, read_class addr (by simp only [wellFormed, decide_eq_true_eq] at h; exact h.1)⟩

theorem wrreg (addr b : Byte) : Statement (.wrreg addr b) := fun h =>
  ⟨_, _, _, rfl, write_class addr (by simp only [wellFormed, decide_eq_true_eq] at h; exact h.1)⟩

theorem wrbuf (addr : Byte) (w : List Byte) : Statement (.wrbuf addr w) := fun h =>
  ⟨_, _, _, rfl, write_class addr (by simp only [wellFormed, decide_eq_true_eq] at h; exact h.1)⟩

theorem cmd (op : Byte) : Statement (.cmd op) := fun _ => ⟨_, _, _, rfl, by simp⟩

theorem ldtx (w : List Byte) : Statement (.ldtx w) := fun _ => ⟨_, _, _, rfl, by decide⟩

theorem rdrx (n : Nat) : Statement (.rdrx n) := fun _ => ⟨_, _, _, rfl, by decide⟩

theorem fltx : Statement .fltx := fun _ => ⟨_, _, _, rfl, by decide⟩

theorem flrx : Statement .flrx := fun _ => ⟨_, _, _, rfl, by decide⟩

theorem rxpipe : Statement .rxpipe := fun _ => ⟨_, _, _, rfl, by decide⟩

theorem clrirq : Statement .clrirq := fun _ => ⟨_, _, _, rfl, by decide⟩

theorem txpulse : Statement .txpulse := fun _ => rfl

theorem txdrain : Statement .txdrain := fun _ => ⟨_, _, _, rfl, by decide⟩

end Sys2Proof.Laws.TablePattern
end

