-- ==== Sys2Proof/Laws/Target.lean ====
section
/-! SUPPORT. What a frame does to the reference target (20_memory.md R71), said once. -/

namespace Sys2Proof.Machine

/-- The reference target after the data exchanges `i`, `i + 1`, ... of the frame of command byte `c` that sent `outs`,
but for its place in the bracket. -/
def RefTarget.afterData (P : Params) (r : RefTarget) (c : Byte) : Nat → List Byte → RefTarget
  | _, [] => r
  | i, out :: rest => RefTarget.afterData P (r.dataByte P c i out).2 c (i + 1) rest

/-- What a data exchange does does not depend on the place in the bracket. -/
theorem RefTarget.dataByte_bracket (P : Params) (r : RefTarget) (b : Bracket) (c : Byte) (i : Nat) (out : Byte) :
    ({ r with bracket := b } : RefTarget).dataByte P c i out =
      ((r.dataByte P c i out).1, { (r.dataByte P c i out).2 with bracket := b }) := by
  simp only [RefTarget.dataByte, RefTarget.readByte, RefTarget.writeByte, RefTarget.payloadByte, RefTarget.status,
    RefTarget.fifoStatus, RefTarget.headPipe]
  split_ifs <;> rfl

theorem RefTarget.afterData_bracket (P : Params) (c : Byte) (outs : List Byte) (r : RefTarget) (b : Bracket) (i : Nat) :
    ({ r with bracket := b } : RefTarget).afterData P c i outs = { r.afterData P c i outs with bracket := b } := by
  induction outs generalizing r i with
  | nil => rfl
  | cons out rest ih => rw [RefTarget.afterData, RefTarget.dataByte_bracket, ih]; rfl

theorem RefTarget.endFrame_bracket (P : Params) (r : RefTarget) (b : Bracket) (c : Byte) (got : List Byte) :
    ({ r with bracket := b } : RefTarget).endFrame P c got = { r.endFrame P c got with bracket := b } := by
  unfold RefTarget.endFrame
  split_ifs <;> rfl

/-- A run of data exchanges with the reference target. -/
theorem State.dataExchanges_reference (n : Nat) (s : State) (h : s.opk ≠ .fr → s.wbuf.length = s.idx + n)
    (r : RefTarget) (c : Byte) (i : Nat) (got : List Byte)
    (ht : s.target = .reference { r with bracket := .inFrame c i got }) :
    (State.dataExchanges n s).target =
      .reference { r.afterData s.params c i (s.toSend n) with bracket := .inFrame c (i + n) (got ++ s.toSend n) } := by
  induction n generalizing s r i got with
  | zero =>
    have : s.toSend 0 = [] := by
      unfold State.toSend
      split
      · rfl
      · rw [List.drop_eq_nil_iff]; have := h ‹_›; omega
    rw [this, State.dataExchanges, ht]; simp [RefTarget.afterData]
  | succ n ih =>
    have ht' : s.dataExchange.target =
        .reference { (r.dataByte s.params c i s.dataOut).2 with bracket := .inFrame c (i + 1) (got ++ [s.dataOut]) } := by
      simp [ht, Target.exchange, RefTarget.exchange, RefTarget.dataByte_bracket]
    rw [State.dataExchanges, ih s.dataExchange (fun hk => by have := h (by simpa using hk); simp; omega) _ _ _ ht',
      State.toSend_succ s n h, RefTarget.afterData]
    simp only [State.dataExchange_params, List.append_assoc, List.singleton_append]
    rw [show i + 1 + n = i + (n + 1) by omega]

/-- A whole frame with the reference target: the status byte answered to the command byte, and the target after it. -/
theorem State.frame_reference (s : State) (q : FrameReq) (hq : q.shaped) (r : RefTarget) (ht : s.target = .reference r) :
    (s.frame q).stat = r.status s.params ∧
    (s.frame q).target = .reference
      { (r.afterData s.params q.command 0 (sentData s.params q)).endFrame s.params q.command (sentData s.params q) with
        bracket := .outside } := by
  have h1 : (s.accept q).target = .reference { r with bracket := .selected } := by simp [ht, Target.select, RefTarget.select]
  have h2 : (s.accept q).commandExchange.target = .reference { r with bracket := .inFrame q.command 0 [] } := by
    simp [ht, Target.select, RefTarget.select, Target.exchange, RefTarget.exchange]
  have h3 := State.dataExchanges_reference q.len (s.accept q).commandExchange
    (fun hk => by simpa using hq.data_length hk) r q.command 0 [] h2
  have h4 : (s.accept q).commandExchange.toSend q.len = sentData s.params q := by
    obtain ⟨kind, command, data, len⟩ := q
    cases kind
    · rfl
    · rfl
    · obtain ⟨h5, h6⟩ := hq.2 rfl
      simp only at h5 h6
      subst h5 h6; rfl
  obtain ⟨ins, tgt, dr, hlen, h⟩ := State.dataExchanges_spec q.len (s.accept q).commandExchange
    (fun hk => by simpa using hq.data_length hk)
  have hp : (State.dataExchanges q.len (s.accept q).commandExchange).params = s.params := by rw [h]; rfl
  constructor
  · show (State.dataExchanges q.len (s.accept q).commandExchange).stat = _
    rw [h]
    simp [State.afterData, State.received, ht, Target.select, RefTarget.select, Target.exchange, RefTarget.exchange,
      RefTarget.status, RefTarget.headPipe]
  · show Target.deselect _ _ = _
    rw [hp, h3, h4]
    simp only [Target.deselect, RefTarget.deselect, Target.reference.injEq, List.nil_append, State.commandExchange_params,
      State.accept_params]
    rw [RefTarget.endFrame_bracket]

/-- The bytes a read frame receives from the reference target, where it answers them all and its data exchanges leave it
as it is. -/
theorem State.dataExchanges_answers (n : Nat) (s : State) (hk : s.opk = .fr) (r : RefTarget) (c : Byte) (i : Nat)
    (got : List Byte) (ht : s.target = .reference { r with bracket := .inFrame c i got }) (bytes : List Byte)
    (hlen : bytes.length = n)
    (h : ∀ j, j < n → r.dataByte s.params c (i + j) s.params.fill = (bytes[j]?, r)) :
    (State.dataExchanges n s).rbuf = s.rbuf ++ bytes := by
  induction n generalizing s i got bytes with
  | zero => obtain rfl := List.length_eq_zero_iff.1 hlen; simp [State.dataExchanges]
  | succ n ih =>
    obtain ⟨b, bytes, rfl⟩ := List.exists_cons_of_length_eq_add_one hlen
    have h0 : r.dataByte s.params c i s.params.fill = (some b, r) := h 0 (by omega)
    have hd : s.dataOut = s.params.fill := by simp [State.dataOut, hk]
    have hx : ({ r with bracket := .inFrame c i got } : RefTarget).exchange s.params s.params.fill =
        (some b, { r with bracket := .inFrame c (i + 1) (got ++ [s.params.fill]) }) := by
      simp [RefTarget.exchange, RefTarget.dataByte_bracket, h0]
    rw [State.dataExchanges, ih s.dataExchange (by simpa using hk) (i + 1) (got ++ [s.params.fill])
      (by simp [ht, hd, Target.exchange, hx]) bytes (by simpa using hlen)
      (fun j hj => by have := h (j + 1) (by omega); simpa [Nat.add_assoc, Nat.add_comm 1 j] using this)]
    simp [hk, hd, State.received, ht, Target.exchange, hx]

/-- The bytes a whole read frame receives from the reference target. -/
theorem State.frame_answers (s : State) (command : Byte) (n : Nat) (r : RefTarget) (ht : s.target = .reference r)
    (bytes : List Byte) (hlen : bytes.length = n)
    (h : ∀ j, j < n → r.dataByte s.params command j s.params.fill = (bytes[j]?, r)) :
    (s.frame ⟨.fr, command, [], n⟩).rbuf = bytes := by
  have h2 : (s.accept ⟨.fr, command, [], n⟩).commandExchange.target = .reference { r with bracket := .inFrame command 0 [] } := by
    simp [ht, Target.select, RefTarget.select, Target.exchange, RefTarget.exchange]
  have := State.dataExchanges_answers n (s.accept ⟨.fr, command, [], n⟩).commandExchange rfl r command 0 [] h2 bytes hlen
    (fun j hj => by simpa using h j hj)
  simpa [State.frame, State.endFrame, State.releaseSelect] using this

end Sys2Proof.Machine
end

