-- ==== Sys2Proof/Tests/Slice0.lean ====
section
/-! SUPPORT. The model's own tests. Expected values are those of 95_test_vectors.md (the vector is named in each
comment), worked out there from the rules; none is the model's own answer. -/

namespace Sys2Proof.Tests

open Sys2Proof Sys2Proof.Machine

/-! ## Helpers -/

/-- The reset state under `P` with a target that answers `script`. -/
def scripted (P : Params) (script : List Byte) : State := { State.resetWith P with target := .oracle script }

/-- The reset state with the reference target `r`. -/
def onTarget (r : RefTarget) : State := { State.reset with target := .reference r }

/-- "reference target with all registers zero": here, no register known, both queues empty, no latched flag. -/
def freshTarget : RefTarget := ⟨[], [], [], 0, .outside⟩

/-- The trace and the results after a step that was accepted. -/
def seen (o : Host.Outcome State Fault Refusal) : Option (List Event × List Result) :=
  match o with
  | .next s => some (s.trace, s.results)
  | .fault _ => none
  | .refused _ => none

/-- Why a request was refused. -/
def why (o : Host.Outcome State Fault Refusal) : Option Refusal :=
  match o with
  | .refused r => some r
  | .fault _ => none
  | .next _ => none

/-- `PHASE`, `CSN`, `IDX` and `STAT` after a run. -/
def latches (o : Host.Outcome State Fault Refusal) : Option (Phase × Level × Nat × Byte) :=
  match o with
  | .next s => some (s.phase, s.csn, s.idx, s.stat)
  | .fault _ => none
  | .refused _ => none

/-- The lines, the phase and the trace after a run. -/
def lines (o : Host.Outcome State Fault Refusal) : Option (Level × Level × Phase × List Event) :=
  match o with
  | .next s => some (s.csn, s.ce, s.phase, s.trace)
  | .fault _ => none
  | .refused _ => none

/-- The defaults without auto-ack. -/
def noAck : Params := { defaultParams with autoAck := false }

/-- The defaults with the alternative status source. -/
def nopSource : Params := { defaultParams with statusSource := .nopCommand }

/-- P5's configuration. -/
def masterParams : Params := { defaultParams with role := .master, cfgPuValue := 0x0B }

/-- P6's configuration. -/
def smallParams : Params :=
  { defaultParams with devNum := 0, autoAck := false, payloadLen := 8, addrWidth := 3 }

/-! ## WellFormed: a well-formed term and an ill-formed one for each check -/

/-- V3, V4, V5: the address check of RDREG. -/
theorem test_wf_rdreg : wellFormed defaultParams (.rdreg 0x1F) = true ∧ wellFormed defaultParams (.rdreg 0x20) = false ∧
    wellFormed defaultParams (.rdreg 0xFF) = false := by decide

/-- V9, V10: the length check of RDBUF; and its address check. -/
theorem test_wf_rdbuf : wellFormed defaultParams (.rdbuf 0x0A 32) = true ∧
    wellFormed defaultParams (.rdbuf 0x0A 33) = false ∧ wellFormed defaultParams (.rdbuf 0x2A 5) = false := by decide

/-- V13, V15: the address check of WRREG. -/
theorem test_wf_wrreg : wellFormed defaultParams (.wrreg 0x1F 0xFF) = true ∧
    wellFormed defaultParams (.wrreg 0x25 0x02) = false := by decide

/-- V17, V19: the length check of WRBUF; and its address check. -/
theorem test_wf_wrbuf : wellFormed defaultParams (.wrbuf 0x10 []) = true ∧
    wellFormed defaultParams (.wrbuf 0x0A (List.replicate 33 0)) = false ∧
    wellFormed defaultParams (.wrbuf 0x30 [0]) = false := by decide

/-- V30, V33, V34: the payload length of LDTX; and one beyond `LEN_MAX`. -/
theorem test_wf_ldtx : wellFormed defaultParams (.ldtx [1, 2, 3, 4]) = true ∧
    wellFormed defaultParams (.ldtx [1, 2, 3]) = false ∧ wellFormed defaultParams (.ldtx [1, 2, 3, 4, 5]) = false ∧
    wellFormed { defaultParams with payloadLen := 33 } (.ldtx (List.replicate 33 0)) = false := by decide

/-- V36, V37: the length check of RDRX. -/
theorem test_wf_rdrx : wellFormed defaultParams (.rdrx 0) = true ∧ wellFormed defaultParams (.rdrx 32) = true ∧
    wellFormed defaultParams (.rdrx 33) = false := by decide

/-- A status register outside the address mask, or no room for one byte: RXPIPE, CLRIRQ. -/
theorem test_wf_status : wellFormed { defaultParams with regStatus := 0x20 } .rxpipe = false ∧
    wellFormed { defaultParams with lenMax := 0 } .rxpipe = false ∧
    wellFormed { nopSource with regStatus := 0x20 } .rxpipe = true ∧
    wellFormed { defaultParams with regStatus := 0x20 } .clrirq = false := by decide

/-- Either polled register outside the address mask, or no room for one byte: TXDRAIN. -/
theorem test_wf_txdrain : wellFormed { defaultParams with regFifoStatus := 0x37 } .txdrain = false ∧
    wellFormed { defaultParams with regStatus := 0x27 } .txdrain = false ∧
    wellFormed { defaultParams with lenMax := 0 } .txdrain = false ∧ wellFormed defaultParams .txdrain = true := by decide

/-- The configuration's own constraints (00_scope.md table P2; R204, R206, R213, R221). -/
theorem test_wf_configuration : blockLegal defaultParams = true ∧ bootLegal defaultParams = true ∧
    buildLegal defaultParams = true ∧ commandsDistinct defaultParams = true ∧
    blockLegal { defaultParams with lenMax := 4 } = false ∧ blockLegal { defaultParams with cmdWRegister := 0x21 } = false ∧
    blockLegal { defaultParams with irqClearMask := 0x30 } = false ∧
    bootLegal { defaultParams with cfgPdValue := 0x0A } = false ∧ bootLegal { defaultParams with cfgPuValue := 0x0B } = false ∧
    bootLegal { defaultParams with rfSetupValue := 0x28 } = false ∧
    bootLegal { defaultParams with rfSetupValue := 0x0A } = true ∧ bootLegal { defaultParams with rfSetupValue := 0x0C } = false ∧
    bootLegal { defaultParams with rfSetupValue := 0x0E } = false ∧ bootLegal { defaultParams with regFeature := 0x3D } = false ∧
    buildLegal { defaultParams with addrWidth := 6 } = false ∧ buildLegal { defaultParams with devNum := 2 } = false ∧
    buildLegal { defaultParams with maxRetry := 16 } = false ∧ buildLegal { defaultParams with payloadLen := 33 } = false ∧
    commandsDistinct { defaultParams with cmdFlushRx := 0xE1 } = false ∧
    commandsDistinct { defaultParams with cmdRRxPayload := 0x21 } = false := by decide

/-! ## Decode: words written out bit by bit from 30_encoding.md tables E1, E2 -/

/-- `000AAAAA` with FILL once: a register read, V2, V3. -/
theorem test_decode_rdreg : decode defaultParams ⟨false, [[0b00000000, 0xFF]]⟩ = .ok (.rdreg 0) ∧
    decode defaultParams ⟨false, [[0b00011111, 0xFF]]⟩ = .ok (.rdreg 0x1F) := by decide

/-- `000AAAAA` with FILL five times: a buffer read, V6. -/
theorem test_decode_rdbuf : decode defaultParams ⟨false, [[0b00001010, 0xFF, 0xFF, 0xFF, 0xFF, 0xFF]]⟩ =
    .ok (.rdbuf 0x0A 5) := by decide

/-- `001AAAAA` with one byte: a register write, V11, V13. -/
theorem test_decode_wrreg : decode defaultParams ⟨false, [[0b00100101, 0x02]]⟩ = .ok (.wrreg 0x05 0x02) ∧
    decode defaultParams ⟨false, [[0b00111111, 0xFF]]⟩ = .ok (.wrreg 0x1F 0xFF) := by decide

/-- `001AAAAA` with five bytes: a buffer write, V16. -/
theorem test_decode_wrbuf : decode defaultParams ⟨false, [[0b00110000, 0xD7, 0x1C, 0xCA, 0x3B, 0x8A]]⟩ =
    .ok (.wrbuf 0x10 [0xD7, 0x1C, 0xCA, 0x3B, 0x8A]) := by decide

/-- A bare byte of no other row: a command, V21. -/
theorem test_decode_cmd : decode defaultParams ⟨false, [[0b11111111]]⟩ = .ok (.cmd 0xFF) := by decide

/-- `1010 0000` and `1011 0000`, by auto-ack, with the payload: V30, V31. -/
theorem test_decode_ldtx : decode defaultParams ⟨false, [[0b10100000, 1, 2, 3, 4]]⟩ = .ok (.ldtx [1, 2, 3, 4]) ∧
    decode noAck ⟨false, [[0b10110000, 1, 2, 3, 4]]⟩ = .ok (.ldtx [1, 2, 3, 4]) := by decide

/-- `0110 0001` with FILL four times: V35. -/
theorem test_decode_rdrx : decode defaultParams ⟨false, [[0b01100001, 0xFF, 0xFF, 0xFF, 0xFF]]⟩ = .ok (.rdrx 4) := by
  decide

/-- `1110 0001` and `1110 0010` alone: V38, V39. -/
theorem test_decode_flushes : decode defaultParams ⟨false, [[0b11100001]]⟩ = .ok .fltx ∧
    decode defaultParams ⟨false, [[0b11100010]]⟩ = .ok .flrx := by decide

/-- `0000 0111` with FILL, and `0010 0111` with `0x70`: V50, V55. -/
theorem test_decode_status : decode defaultParams ⟨false, [[0b00000111, 0xFF]]⟩ = .ok .rxpipe ∧
    decode defaultParams ⟨false, [[0b00100111, 0x70]]⟩ = .ok .clrirq := by decide

/-- The chip-enable operations: V70, V71. -/
theorem test_decode_chip_enable : decode defaultParams ⟨true, []⟩ = .ok .txpulse ∧
    decode defaultParams ⟨true, [[0b00010111, 0xFF], [0b00000111, 0xFF]]⟩ = .ok .txdrain := by decide

/-- 30_encoding.md R94, R95: one frame, several operations; and words of no operation, by name. -/
theorem test_decode_overlaps : candidates defaultParams ⟨false, [[0b00000111, 0xFF]]⟩ = [.rxpipe, .rdreg 7, .rdbuf 7 1] ∧
    candidates defaultParams ⟨false, [[0b11100001]]⟩ = [.fltx, .cmd 0xE1] ∧
    decode defaultParams ⟨false, [[]]⟩ = .error .emptyBracket ∧
    decode defaultParams ⟨false, []⟩ = .error .nothingSent ∧
    decode defaultParams ⟨false, [[0b11100001, 0x00]]⟩ = .error (.noSuchFrame 0xE1) ∧
    decode defaultParams ⟨false, [[0x07], [0x07]]⟩ = .error .severalFrames ∧
    decode defaultParams ⟨true, [[0x07]]⟩ = .error .notAPoll := by decide

/-! ## The operations, one step each -/

/-- V1. -/
theorem test_rdreg : seen (exec (.rdreg 0x07) (scripted defaultParams [0x0E, 0x0E])) =
    some ([.cs .low, .x 0x07 0x0E, .x 0xFF 0x0E, .cs .high], [.byte 0x0E]) := by decide

/-- V2, V4: the result is the second byte, not the status; an illegal address is refused. -/
theorem test_rdreg_second_byte : seen (exec (.rdreg 0x00) (scripted defaultParams [0x0E, 0x0A])) =
      some ([.cs .low, .x 0x00 0x0E, .x 0xFF 0x0A, .cs .high], [.byte 0x0A]) ∧
    why (exec (.rdreg 0x20) (scripted defaultParams [])) = some (.malformedAddress 0x20) := by decide

/-- V6. -/
theorem test_rdbuf : seen (exec (.rdbuf 0x0A 5) (scripted defaultParams [0x0E, 0x0F, 0xB3, 0x47, 0x17, 0x1C])) =
    some ([.cs .low, .x 0x0A 0x0E, .x 0xFF 0x0F, .x 0xFF 0xB3, .x 0xFF 0x47, .x 0xFF 0x17, .x 0xFF 0x1C, .cs .high],
      [.bytes [0x0F, 0xB3, 0x47, 0x17, 0x1C]]) := by decide

/-- V7, V10: length 0 sends the command byte alone; `LEN_MAX + 1` is refused. -/
theorem test_rdbuf_edges : seen (exec (.rdbuf 0x0A 0) (scripted defaultParams [0x0E])) =
      some ([.cs .low, .x 0x0A 0x0E, .cs .high], [.bytes []]) ∧
    why (exec (.rdbuf 0x0A 33) (scripted defaultParams [])) = some (.lengthOverLimit 33) := by decide

/-- V11: the result is the first byte received. -/
theorem test_wrreg : seen (exec (.wrreg 0x05 0x02) (scripted defaultParams [0x0E, 0x00])) =
    some ([.cs .low, .x 0x25 0x0E, .x 0x02 0x00, .cs .high], [.status 0x0E]) := by decide

/-- V15: an address is not a command byte. -/
theorem test_wrreg_address : why (exec (.wrreg 0x25 0x02) (scripted defaultParams [])) =
    some (.malformedAddress 0x25) := by decide

/-- V16. -/
theorem test_wrbuf :
    seen (exec (.wrbuf 0x10 [0xD7, 0x1C, 0xCA, 0x3B, 0x8A]) (scripted defaultParams [0x0E, 1, 2, 3, 4, 5])) =
    some ([.cs .low, .x 0x30 0x0E, .x 0xD7 1, .x 0x1C 2, .x 0xCA 3, .x 0x3B 4, .x 0x8A 5, .cs .high],
      [.status 0x0E]) := by decide

/-- V17, V19. -/
theorem test_wrbuf_edges : seen (exec (.wrbuf 0x10 []) (scripted defaultParams [0x0E])) =
      some ([.cs .low, .x 0x30 0x0E, .cs .high], [.status 0x0E]) ∧
    why (exec (.wrbuf 0x0A (List.replicate 33 0)) (scripted defaultParams [])) = some (.lengthOverLimit 33) := by decide

/-- V21. -/
theorem test_cmd : seen (exec (.cmd 0xFF) (scripted defaultParams [0x42])) =
    some ([.cs .low, .x 0xFF 0x42, .cs .high], [.status 0x42]) := by decide

/-- V30. -/
theorem test_ldtx : seen (exec (.ldtx [1, 2, 3, 4]) (scripted defaultParams [0x0E, 9, 9, 9, 9])) =
    some ([.cs .low, .x 0xA0 0x0E, .x 1 9, .x 2 9, .x 3 9, .x 4 9, .cs .high], [.status 0x0E]) := by decide

/-- V31, V33. -/
theorem test_ldtx_no_ack : seen (exec (.ldtx [1, 2, 3, 4]) (scripted noAck [0x0E, 9, 9, 9, 9])) =
      some ([.cs .low, .x 0xB0 0x0E, .x 1 9, .x 2 9, .x 3 9, .x 4 9, .cs .high], [.status 0x0E]) ∧
    why (exec (.ldtx [1, 2, 3]) (scripted defaultParams [])) = some (.payloadLength 3) := by decide

/-- V35. -/
theorem test_rdrx : seen (exec (.rdrx 4) (scripted defaultParams [0x40, 0x11, 0x22, 0x33, 0x44])) =
    some ([.cs .low, .x 0x61 0x40, .x 0xFF 0x11, .x 0xFF 0x22, .x 0xFF 0x33, .x 0xFF 0x44, .cs .high],
      [.bytes [0x11, 0x22, 0x33, 0x44]]) := by decide

/-- V36, V37. -/
theorem test_rdrx_edges : seen (exec (.rdrx 0) (scripted defaultParams [0x0E])) =
      some ([.cs .low, .x 0x61 0x0E, .cs .high], [.bytes []]) ∧
    why (exec (.rdrx 33) (scripted defaultParams [])) = some (.lengthOverLimit 33) := by decide

/-- V38. -/
theorem test_fltx : seen (exec .fltx (scripted defaultParams [0x0E])) =
    some ([.cs .low, .x 0xE1 0x0E, .cs .high], [.status 0x0E]) := by decide

/-- V39. -/
theorem test_flrx : seen (exec .flrx (scripted defaultParams [0x0E])) =
    some ([.cs .low, .x 0xE2 0x0E, .cs .high], [.status 0x0E]) := by decide

/-- V52: the pipe comes from the data byte, not from the status byte. -/
theorem test_rxpipe : seen (exec .rxpipe (scripted defaultParams [0x40, 0x42])) =
    some ([.cs .low, .x 0x07 0x40, .x 0xFF 0x42, .cs .high], [.pipe 1]) := by decide

/-- V54. -/
theorem test_rxpipe_nop : seen (exec .rxpipe (scripted nopSource [0x42])) =
    some ([.cs .low, .x 0xFF 0x42, .cs .high], [.pipe 1]) := by decide

/-- V55. -/
theorem test_clrirq : seen (exec .clrirq (scripted defaultParams [0x2E, 0x55])) =
    some ([.cs .low, .x 0x27 0x2E, .x 0x70 0x55, .cs .high], [.nothing]) := by decide

/-- Section 1.1's quick values, V56 and V57. -/
theorem test_flags : rxPipeOf 0x00 = 0 ∧ rxPipeOf 0x01 = 0 ∧ rxPipeOf 0x02 = 1 ∧ rxPipeOf 0x06 = 3 ∧ rxPipeOf 0x4C = 6 ∧
    rxPipeOf 0x55 = 2 ∧ rxPipeOf 0xAA = 5 ∧ rxPipeOf 0xF1 = 0 ∧ rxPipeOf 0xFF = 7 ∧
    maxRtOf defaultParams 0x1E = true ∧ maxRtOf defaultParams 0x2E = false ∧ maxRtOf defaultParams 0x0E = false ∧
    txEmptyOf defaultParams 0x11 = true ∧ txEmptyOf defaultParams 0x01 = false ∧ txEmptyOf defaultParams 0x21 = false := by
  decide

/-- V70, `T = 10`. -/
theorem test_txpulse : seen (exec .txpulse (scripted defaultParams [])) =
    some ([.ce .high, .dly 10, .ce .low], [.nothing]) := by decide

/-- V71: TX empty at once; the second read is still made. -/
theorem test_txdrain : seen (exec .txdrain (scripted defaultParams [0x2E, 0x11, 0x2E, 0x2E])) =
    some ([.ce .high, .dly 10, .cs .low, .x 0x17 0x2E, .x 0xFF 0x11, .cs .high,
      .cs .low, .x 0x07 0x2E, .x 0xFF 0x2E, .cs .high, .ce .low], [.nothing]) := by decide

/-- V72's first poll: neither flag, so the operation goes on with chip-enable high and nothing is returned. -/
theorem test_txdrain_goes_on : lines (exec .txdrain (scripted defaultParams [0x0E, 0x01, 0x0E, 0x0E])) =
    some (.high, .high, .idle, [.ce .high, .dly 10, .cs .low, .x 0x17 0x0E, .x 0xFF 0x01, .cs .high,
      .cs .low, .x 0x07 0x0E, .x 0xFF 0x0E, .cs .high]) := by decide

/-- 00_scope.md R10: a parameter outside its range refuses the operation that uses it, and no other. -/
theorem test_parameter_ranges :
    why (exec (.cmd 0xFF) (scripted { defaultParams with lenMax := 4 } [])) = some (.parameterOutOfRange .lenMax) ∧
    why (exec .txdrain (scripted { defaultParams with bitTxEmpty := 8 } [])) = some (.parameterOutOfRange .bitTxEmpty) ∧
    why (exec .clrirq (scripted { defaultParams with irqClearMask := 0x30 } [])) =
      some (.parameterOutOfRange .irqClearMask) ∧
    why (exec (.ldtx []) (scripted { defaultParams with payloadLen := 0 } [])) = some (.parameterOutOfRange .payloadLen) ∧
    seen (exec .txpulse (scripted { defaultParams with lenMax := 4 } [])) =
      some ([.ce .high, .dly 10, .ce .low], [.nothing]) := by decide

/-- 70_reset_and_hazards.md R204, R206, R213 with 00_scope.md R10: a byte against its constraint stops the program at its
item. -/
theorem test_boot_bytes :
    (bootStep1 { defaultParams with cfgPdValue := 0x0A } = [.unpredicted .powerDownByte]) ∧
    (bootStep3 { defaultParams with rfSetupValue := 0x0E } = [wr 0x05 0x02, .unpredicted .rfSetupByte]) ∧
    (bootStep10 { defaultParams with cfgPuValue := 0x0B } = [.unpredicted .powerUpByte]) ∧
    bootStep10 { masterParams with cfgPuValue := 0x0B } = [wr 0x00 0x0B] := by decide

/-! ## Small steps, reset, and the boot program -/

/-- The small-step view of V11: S1 and S2. -/
theorem test_small_step_accept :
    latches (step { scripted defaultParams [0x0E, 0x00] with inputs := [.start (.wrreg 0x05 0x02)] }) =
      some (.cmd, .low, 0, 0) ∧
    latches (steps 2 { scripted defaultParams [0x0E, 0x00] with inputs := [.start (.wrreg 0x05 0x02)] }) =
      some (.data, .low, 0, 0x0E) := by decide

/-- The small-step view of V11: S3 and S4. -/
theorem test_small_step_end :
    latches (steps 3 { scripted defaultParams [0x0E, 0x00] with inputs := [.start (.wrreg 0x05 0x02)] }) =
      some (.fin, .low, 1, 0x0E) ∧
    seen (steps 4 { scripted defaultParams [0x0E, 0x00] with inputs := [.start (.wrreg 0x05 0x02)] }) =
      some ([.cs .low, .x 0x25 0x0E, .x 0x02 0x00, .cs .high], [.status 0x0E]) := by decide

/-- V92: a reset after S1 leaves a bracket with no exchange. -/
theorem test_reset_in_frame :
    lines (step { scripted defaultParams [] with
      csn := .low, phase := .cmd, activity := .frame .status, trace := [.cs .low], inputs := [.reset] }) =
      some (.high, .low, .idle, [.cs .low, .cs .high]) := by decide

/-- V94, V90: inside a poll frame the CS(1) comes first; in the idle state reset is invisible. -/
theorem test_reset_in_drain :
    lines (step { scripted defaultParams [] with
      csn := .low, ce := .high, phase := .data, activity := .drain .readFifo, inputs := [.reset] }) =
      some (.high, .low, .idle, [.cs .high, .ce .low]) ∧
    lines (step { scripted defaultParams [] with inputs := [.reset] }) = some (.high, .low, .idle, []) := by decide

/-- P4: slave, device 1, auto-ack on. -/
theorem test_boot_slave : bootProgram defaultParams =
    [wr 0x00 0x08, wr 0x01 0x01, wr 0x04 0x03, wr 0x05 0x02, wr 0x06 0x08, wr 0x03 0x03, .call .clrirq, wr 0x02 0x01,
     .call (.wrbuf 0x0A [0xD7, 0x1C, 0xCA, 0x3B, 0x8A]), .call (.wrbuf 0x10 [0xD7, 0x1C, 0xCA, 0x3B, 0x8A]),
     wr 0x11 0x00, wr 0x1C 0x00, wr 0x1D 0x00, .call .fltx, .call .flrx, wr 0x00 0x0A, .delay 1500] := by decide

/-- P5: master, auto-ack on. -/
theorem test_boot_master : bootProgram masterParams =
    [wr 0x00 0x08, wr 0x01 0x03, wr 0x04 0x00, wr 0x05 0x02, wr 0x06 0x08, wr 0x03 0x03, .call .clrirq, wr 0x02 0x03,
     .call (.wrbuf 0x0A [0x0F, 0xB3, 0x47, 0x17, 0x1C]), .call (.wrbuf 0x0B [0xD7, 0x1C, 0xCA, 0x3B, 0x8A]),
     wr 0x11 0x04, wr 0x12 0x04, .call (.wrbuf 0x10 [0, 0, 0, 0, 0]), wr 0x1C 0x00, wr 0x1D 0x00,
     .call .fltx, .call .flrx, wr 0x00 0x0B, .delay 1500] := by decide

/-- P6: slave, device 0, auto-ack off, 3-byte addresses; and P4's variant for device 0: `0xA3`. -/
theorem test_boot_small : bootProgram smallParams =
      [wr 0x00 0x08, wr 0x01 0x00, wr 0x04 0x00, wr 0x05 0x02, wr 0x06 0x08, wr 0x03 0x01, .call .clrirq, wr 0x02 0x01,
       .call (.wrbuf 0x0A [0x0F, 0xB3, 0x47]), .call (.wrbuf 0x10 [0x0F, 0xB3, 0x47]),
       wr 0x11 0x00, wr 0x1C 0x00, wr 0x1D 0x01, .call .fltx, .call .flrx, wr 0x00 0x0A, .delay 1500] ∧
    (bootStep2 { defaultParams with devNum := 0 }) = [wr 0x01 0x01, wr 0x04 0xA3] := by decide

/-- P7: an illegal address width. -/
theorem test_boot_illegal_width :
    (bootProgram { masterParams with autoAck := false, addrWidth := 6 }).take 7 =
      [wr 0x00 0x08, wr 0x01 0x00, wr 0x04 0x00, wr 0x05 0x02, wr 0x06 0x08, .call .clrirq, .unpredicted .addressWidth] := by
  decide

/-! ## The reference target -/

/-- P1, operation 2: a written register reads back; the status byte is `0x0E`. -/
theorem test_reference_read_back :
    seen (steps 2 { onTarget { freshTarget with reg := [(0x05, 0x00)] } with
      inputs := [.call (.rdreg 0x05), .call (.rdreg 0x07)] }) =
    some ([.cs .low, .x 0x05 0x0E, .x 0xFF 0x00, .cs .high, .cs .low, .x 0x07 0x0E, .x 0xFF 0x0E, .cs .high],
      [.byte 0x00, .byte 0x0E]) := by decide

/-- P3, operation 1: the pipe of the payload at the head of the RX queue, `st = 0x42`. -/
theorem test_reference_pipe :
    seen (exec .rxpipe (onTarget { freshTarget with rx := [(1, [0x11, 0x22, 0x33, 0x44])], fl := 0x40 })) =
    some ([.cs .low, .x 0x07 0x42, .x 0xFF 0x42, .cs .high], [.pipe 1]) := by decide

/-! ## Witnesses: for each statement with hypotheses, inputs that meet them all together -/

/-- An idle state that a script answers. -/
def idle4 : State := scripted defaultParams [0x0E, 0x01, 0x0E, 0x2E]

/-- A state inside a read frame of five bytes, two of them received. -/
def inFrame : State :=
  { scripted defaultParams [] with
    csn := .low, phase := .data, opk := .fr, cmd := 0x0A, len := 5, idx := 2, rbuf := [0x0F, 0xB3],
    activity := .frame .dataBytes, trace := [.cs .low, .x 0x0A 0x0E, .x 0xFF 0x0F, .x 0xFF 0xB3] }

/-- A state inside TXDRAIN, between two polls. -/
def inDrain : State :=
  { scripted defaultParams [0x0E, 0x11, 0x0E, 0x2E] with
    ce := .high, activity := .drain .readFifo, trace := [.ce .high, .dly 10] }

/-- A reference target with one register byte, one payload in each queue and a latched bit. -/
def busyTarget : RefTarget := ⟨[(0x05, 0x4C)], [[1, 2, 3, 4]], [(1, [0x11, 0x22, 0x33, 0x44])], 0x40, .outside⟩

theorem inFrame_inv : inFrame.Inv :=
  ⟨by unfold State.latchesAgree; decide, show inFrame.phase ≠ .idle ∧ inFrame.ce = .low by decide, by unfold State.bracketed; decide,
    by decide⟩

theorem inDrain_inv : inDrain.Inv :=
  ⟨by unfold State.latchesAgree; decide,
    show inDrain.ce = .high ∧ txdrainLegal inDrain.params = true ∧ (inDrain.phase ≠ .idle → inDrain.opk = .fr ∧ inDrain.len = 1) by decide,
    by unfold State.bracketed; decide, by decide⟩

theorem witness_EveryStepKeepsTheInvariants :
    (∃ t, inFrame.Inv ∧ step inFrame = .next t) ∧ (∃ t, inDrain.Inv ∧ step inDrain = .next t) :=
  ⟨⟨_, inFrame_inv, rfl⟩, ⟨_, inDrain_inv, rfl⟩⟩

/-- A run that stands inside a frame. -/
theorem witness_ReachableStatesObeyTheLatchRelations :
    ∃ s, (Target.oracle [0x0E]).wf = true ∧
      steps 2 { State.resetWith defaultParams with inputs := [.start (.rdbuf 0x0A 32)], target := .oracle [0x0E] } = .next s ∧
      s.phase = .data ∧ s.inputs.head? ≠ some .reset ∧ ∃ t, step s = .next t :=
  ⟨_, rfl, rfl, rfl, by decide, _, rfl⟩

theorem witness_BusyBlockAlwaysHasAStep :
    (inFrame.Inv ∧ inFrame.busy = true) ∧ (inDrain.Inv ∧ inDrain.busy = true) :=
  ⟨⟨inFrame_inv, by decide⟩, ⟨inDrain_inv, by decide⟩⟩

/-- With either line asserted, and with neither. -/
theorem witness_ResetEventReleasesTheLines :
    ({ inFrame with inputs := [.reset] } : State).inputs = .reset :: [] ∧
    ({ inDrain with inputs := [.reset, .quiet] } : State).inputs = .reset :: [.quiet] ∧
    ({ idle4 with inputs := [.reset] } : State).csn = .high := ⟨rfl, rfl, rfl⟩

/-- Both clauses: a request that runs, one that is refused. -/
theorem witness_IdleLatchesAreDead : idle4.Idle ∧ (∃ t, exec (.rdreg 0x1F) idle4 = .next t) ∧
    ∃ e, exec (.rdreg 0x20) idle4 = .refused e := ⟨by decide, ⟨_, rfl⟩, ⟨_, rfl⟩⟩

theorem witness_StepRunsTheNextRequest :
    (({ idle4 with inputs := [.call (.rdreg 5)] } : State).Idle ∧
      ({ idle4 with inputs := [.call (.rdreg 5)] } : State).inputs = .call (.rdreg 5) :: []) ∧
    (({ idle4 with inputs := [.start .txpulse] } : State).Idle ∧
      ({ idle4 with inputs := [.start .txpulse] } : State).inputs = .start .txpulse :: []) ∧
    decodeTableWord 8 0x17 = some .txdrain ∧ decodeTableWord 0 0 = some .txpulse := by decide

theorem witness_NoRequestIsAcceptedWhileBusy :
    inFrame.busy = true ∧ waits inFrame.inputs = true ∧
    (∃ t, waits ({ inDrain with inputs := [.call .fltx] } : State).inputs = true ∧
      step { inDrain with inputs := [.call .fltx] } = .next t) := ⟨by decide, by decide, _, rfl, rfl⟩

theorem witness_StepsOnlyAppendAndKeepTheConfiguration :
    (∃ t, step inFrame = .next t) ∧ ∃ t, step { idle4 with inputs := [.reset] } = .next t := ⟨⟨_, rfl⟩, ⟨_, rfl⟩⟩

theorem witness_ExactlyTheWellFormedRequestsRun : idle4.Idle ∧ wellFormed idle4.params (.rdbuf 0x1F 32) = true ∧
    wellFormed idle4.params (.rdbuf 0x1F 33) = false := by decide

/-- Each parameter just outside its range, the others inside. -/
theorem witness_ParametersOutOfRangeAreRefused :
    ((scripted { defaultParams with lenMax := 4 } []).Idle ∧ ¬LenMaxLegal { defaultParams with lenMax := 4 } ∧
      ¬LenMaxLegal { defaultParams with lenMax := 31, payloadLen := 32 } ∧
      AddrLegal { defaultParams with lenMax := 4 } 0x1F) ∧
    (∀ P ∈ [{ defaultParams with lenMax := 4 }, { defaultParams with lenMax := 4, statusSource := .nopCommand }],
      ¬LenMaxLegal P ∧ PayloadLenLegal P ∧ (List.replicate P.payloadLen (0 : Byte)).length = P.payloadLen ∧
        (P.statusSource = .nopCommand ∨ AddrLegal P P.regStatus) ∧ IrqMaskLegal P ∧ AddrLegal P P.regStatus ∧
        AddrLegal P P.regFifoStatus) ∧
    (¬PayloadLenLegal { defaultParams with payloadLen := 0 } ∧ ¬PayloadLenLegal { defaultParams with payloadLen := 33 }) ∧
    (¬IrqMaskLegal { defaultParams with irqClearMask := 0x30 } ∧ ¬IrqMaskLegal { defaultParams with bitRxDr := 8 }) ∧
    ∀ P ∈ [{ defaultParams with bitTxEmpty := 8 }, { defaultParams with bitMaxRt := 8 }],
      AddrLegal P P.regFifoStatus ∧ AddrLegal P P.regStatus ∧ LengthLegal P 1 ∧
        (¬BitLegal P.bitTxEmpty ∨ BitLegal P.bitTxEmpty ∧ ¬BitLegal P.bitMaxRt) := by decide

theorem witness_RdregReturnsTheDataByte : idle4.Idle ∧ AddrLegal idle4.params 0x1F ∧ LengthLegal idle4.params 1 ∧
    ¬AddrLegal idle4.params 0x20 := by decide

theorem witness_RdbufReturnsTheDataBytes : idle4.Idle ∧ AddrLegal idle4.params 0x1F ∧ LengthLegal idle4.params 0 ∧
    LengthLegal idle4.params 32 ∧ LenMaxLegal idle4.params ∧ idle4.params.lenMax < 33 ∧ ¬AddrLegal idle4.params 0x20 := by decide

theorem witness_WrregSendsOneByteAndReturnsTheStatus : idle4.Idle ∧ AddrLegal idle4.params 0x1F ∧
    LengthLegal idle4.params 1 ∧ ¬AddrLegal idle4.params 0x20 := by decide

theorem witness_WrbufSendsTheBytesAndReturnsTheStatus : idle4.Idle ∧ AddrLegal idle4.params 0x1F ∧
    LengthLegal idle4.params (List.replicate 32 (0 : Byte)).length ∧
    LenMaxLegal idle4.params ∧ idle4.params.lenMax < (List.replicate 33 (0 : Byte)).length ∧ ¬AddrLegal idle4.params 0x20 := by decide

theorem witness_CmdSendsItsOpcodeAndReturnsTheStatus : idle4.Idle ∧ LengthLegal idle4.params 0 := by decide

/-- With auto-ack and without; both refused lengths next to `PAYLOAD_LEN`. -/
theorem witness_LdtxSendsThePayloadWithTheAckChoice : idle4.Idle ∧ (scripted noAck []).Idle ∧ PayloadLenLegal idle4.params ∧
    [1, 2, 3, (4 : Byte)].length = idle4.params.payloadLen ∧ LengthLegal idle4.params [1, 2, 3, (4 : Byte)].length ∧
    [1, 2, (3 : Byte)].length ≠ idle4.params.payloadLen ∧ [1, 2, 3, 4, (5 : Byte)].length ≠ idle4.params.payloadLen := by
  decide

theorem witness_RdrxReturnsThePayloadBytes : idle4.Idle ∧ LengthLegal idle4.params 32 ∧ LenMaxLegal idle4.params ∧ idle4.params.lenMax < 33 := by
  decide

theorem witness_FlushesSendTheirCommandAlone : idle4.Idle ∧ LengthLegal idle4.params 0 := by decide

theorem witness_RxpipeReturnsThePipeField :
    (idle4.Idle ∧ idle4.params.statusSource = .readStatusReg ∧ AddrLegal idle4.params idle4.params.regStatus ∧
      LengthLegal idle4.params 1) ∧
    ((scripted nopSource []).Idle ∧ (scripted nopSource []).params.statusSource = .nopCommand ∧
      LengthLegal (scripted nopSource []).params 0) := by decide

theorem witness_ClrirqWritesTheLatchedBits : idle4.Idle ∧ AddrLegal idle4.params idle4.params.regStatus ∧
    LengthLegal idle4.params 1 ∧ IrqMaskLegal idle4.params := by decide

theorem witness_TxpulsePulsesChipEnable : idle4.Idle := by decide

theorem witness_TxdrainRaisesPollsAndTests : idle4.Idle ∧ txdrainLegal idle4.params = true ∧
    idle4.target = .oracle (0x0E :: 0x01 :: 0x0E :: 0x2E :: []) := by decide

/-- V71 ends, V72's first poll does not. -/
theorem witness_DrainPollsUntilTheExitTest : inDrain.phase = .idle ∧ inDrain.activity = .drain .readFifo ∧
    waits inDrain.inputs = true ∧ inDrain.target = .oracle (0x0E :: 0x11 :: 0x0E :: 0x2E :: []) ∧
    exitTest inDrain.params 0x11 0x2E = true ∧ exitTest inDrain.params 0x01 0x0E = false := by decide

/-- V72: a script whose first two polls read neither flag; V76: a target that answers zeros; the reference target with a
payload in its TX queue. -/
theorem witness_DrainHangsWithoutTheExitFlags :
    (∀ target ∈ [Target.oracle ([⟨0x0E, 0x01, 0x0E, 0x0E⟩, ⟨0x0E, 0x21, 0x0E, 0x2E⟩].flatMap PollAnswers.script ++ [0x0E]),
        .constant 0x00, .reference busyTarget],
      let s : State := { State.reset with target := target, inputs := [.call .txdrain, .call .fltx] }
      s.Idle ∧ txdrainLegal s.params = true ∧ s.inputs = .call .txdrain :: [.call .fltx] ∧ waits [.call .fltx] = true) ∧
    (∀ p ∈ [(⟨0x0E, 0x01, 0x0E, 0x0E⟩ : PollAnswers), ⟨0x0E, 0x21, 0x0E, 0x2E⟩],
      exitTest defaultParams p.fifo p.status = false) ∧
    exitTest defaultParams 0x00 0x00 = false ∧
    (defaultParams.cmdRRegister &&& defaultParams.regAddrMask = 0 ∧
      defaultParams.regFifoStatus ≠ defaultParams.regStatus ∧
      exitTest defaultParams (busyTarget.fifoStatus defaultParams) (busyTarget.status defaultParams) = false) := by decide

/-- Each of the four small steps, at the last data exchange of a frame of greatest length. -/
theorem witness_SmallStepsWriteTheLatches :
    (idle4.Idle ∧ planOf idle4.params (.rdbuf 0x1F 32) = .ok (.frame ⟨.fr, 0x1F, [], 32⟩ .dataBytes)) ∧
    (({ inFrame with phase := .cmd } : State).phase = .cmd ∧ ({ inFrame with phase := .cmd } : State).phase ≠ .idle) ∧
    (∀ s ∈ [({ inFrame with len := 32, idx := 31 } : State)],
      s.phase = .data ∧ s.idx < s.len ∧ s.opk = .fr) ∧
    (∀ s ∈ [({ inFrame with opk := .fw, len := 2, idx := 1, wbuf := [0xD7, 0x1C] } : State)],
      s.phase = .data ∧ s.idx < s.len ∧ s.opk = .fw ∧ s.wbuf[s.idx]? = some 0x1C) ∧
    ({ inFrame with phase := .fin, idx := 5 } : State).phase = .fin ∧ inFrame.activity = .frame .dataBytes := by decide

/-- Both status sources. -/
theorem witness_PseudoOperationsExpand : idle4.Idle ∧ (scripted nopSource [0x42]).Idle ∧
    (∃ t, exec (.wrreg idle4.params.regStatus idle4.params.irqClearMask) idle4 = .next t) ∧
    IrqMaskLegal idle4.params ∧ idle4.params.statusSource = .readStatusReg ∧ (∃ t, exec (.rdreg idle4.params.regStatus) idle4 = .next t) ∧
    (scripted nopSource [0x42]).params.statusSource = .nopCommand ∧
    ∃ t, exec (.cmd 0xFF) (scripted nopSource [0x42]) = .next t :=
  ⟨by decide, by decide, ⟨_, rfl⟩, by decide, rfl, ⟨_, rfl⟩, rfl, ⟨_, rfl⟩⟩

/-- A reset, an accepted TXPULSE and the CE(0) of one in progress; operations that have returned. -/
theorem witness_OnlyChipEnableOperationsAndResetMoveCe :
    (∃ t, step { inDrain with inputs := [.reset] } = .next t ∧ t.ce ≠ inDrain.ce) ∧
    (∃ t, step { idle4 with inputs := [.start .txpulse] } = .next t ∧ t.ce ≠ idle4.ce) ∧
    (∃ t, step { inDrain with activity := .pulse .held } = .next t ∧ t.ce ≠ inDrain.ce) ∧
    (∃ t, exec .txpulse idle4 = .next t ∧ t.activity = .idle) ∧ ∃ t, exec .fltx idle4 = .next t ∧ t.activity = .idle :=
  ⟨⟨_, rfl, by decide⟩, ⟨_, rfl, by decide⟩, ⟨_, rfl, by decide⟩, ⟨_, rfl, rfl⟩, ⟨_, rfl, rfl⟩⟩

/-- A frame of no data, a frame of the greatest length, and TXPULSE. -/
theorem witness_SmallStepsAgreeWithOneAction :
    ∀ i ∈ [Instr.rdbuf 0x0A 0, .rdbuf 0x1F 32, .txpulse],
      let s : State := { idle4 with inputs := [.start i, .call .fltx] }
      s.Idle ∧ wellFormed s.params i = true ∧ i ≠ .txdrain ∧ waits [.call .fltx] = true ∧
        s.inputs = .start i :: [.call .fltx] := by decide

/-- Both clauses: the first poll ends the operation, or it does not. -/
theorem witness_DrainSmallStepsAgreeWithOneAction :
    (∃ t, ({ inDrain with ce := .low, activity := .idle, inputs := [.start .txdrain] } : State).Idle ∧ waits [] = true ∧
      exec .txdrain { inDrain with ce := .low, activity := .idle, inputs := [] } = .next t ∧ t.activity = .idle) ∧
    ∃ t, ({ idle4 with inputs := [.start .txdrain] } : State).Idle ∧
      exec .txdrain { idle4 with target := .oracle [0x0E, 0x01, 0x0E, 0x0E], inputs := [] } = .next t ∧
      t.activity ≠ .idle :=
  ⟨⟨_, by decide, rfl, rfl, by decide⟩, ⟨_, by decide, rfl, by decide⟩⟩

theorem witness_WhatIsSentIsTheEncodedWord : idle4.Idle ∧ (∃ t, exec (.rdbuf 0x0A 3) idle4 = .next t ∧ t.activity = .idle) ∧
    ∃ t, exec .txdrain { idle4 with target := .oracle [0x2E, 0x11, 0x2E, 0x2E] } = .next t ∧ t.activity = .idle :=
  ⟨by decide, ⟨_, rfl, rfl⟩, ⟨_, rfl, by decide⟩⟩

theorem witness_CallSequencesDriveTheirWords :
    let program : List Input := [.call (.wrreg 0x05 0x02), .delay 10, .call .txpulse]
    ({ idle4 with inputs := program ++ [.call .fltx] } : State).Idle ∧
      ∀ x ∈ program, (∃ us, x = .delay us) ∨ ∃ i, x = .call i ∧ i ≠ .txdrain ∧ wellFormed idle4.params i = true := by
  refine ⟨by decide, fun x hx => ?_⟩
  simp only [List.mem_cons, List.not_mem_nil, or_false] at hx
  rcases hx with rfl | rfl | rfl
  · exact .inr ⟨_, rfl, by decide, by decide⟩
  · exact .inl ⟨_, rfl⟩
  · exact .inr ⟨_, rfl, by decide, by decide⟩

theorem witness_WhatIsSentDoesNotDependOnTheTarget :
    (∃ t u, exec (.rdreg 5) idle4 = .next t ∧ exec (.rdreg 5) { idle4 with target := .constant 0, draws := 7 } = .next u) ∧
    ∃ t u, exec .txdrain idle4 = .next t ∧ exec .txdrain { idle4 with target := .constant 0xFF, draws := 7 } = .next u :=
  ⟨⟨_, _, rfl, rfl⟩, ⟨_, _, rfl, rfl⟩⟩

theorem witness_CandidatesAreExactlyTheSenders : defaultParams.cmdRRegister &&& defaultParams.regAddrMask = 0 ∧
    defaultParams.cmdWRegister &&& defaultParams.regAddrMask = 0 := by decide

/-- Every constructor, at an edge of its operands. -/
theorem witness_DecodeOfEncodeIsTheOperation :
    ∀ i ∈ [Instr.rdreg 0x1F, .rdbuf 0x07 0, .rdbuf 0x1F 32, .wrreg 0x07 0x00, .wrbuf 0x1F [], .cmd 0xFF,
        .ldtx [1, 2, 3, 4], .rdrx 0, .rdrx 32, .fltx, .flrx, .rxpipe, .clrirq, .txpulse, .txdrain],
      wellFormed defaultParams i = true ∧ unambiguous defaultParams i = true := by decide

theorem witness_WrittenRegisterReadsBack :
    let s := onTarget busyTarget
    s.Idle ∧ s.target = .reference busyTarget ∧ blockLegal s.params = true ∧ commandsDistinct s.params = true ∧
      AddrLegal s.params 0x1F ∧ (0x1F : Byte) ≠ s.params.regStatus ∧ (0x1F : Byte) ≠ s.params.regFifoStatus := by decide

theorem witness_WrittenBufferReadsBack :
    let s := onTarget busyTarget
    s.Idle ∧ s.target = .reference busyTarget ∧ blockLegal s.params = true ∧ commandsDistinct s.params = true ∧
      AddrLegal s.params 0x00 ∧ (0x00 : Byte) ≠ s.params.regStatus ∧ (0x00 : Byte) ≠ s.params.regFifoStatus ∧
      LengthLegal s.params (List.replicate 32 (0x55 : Byte)).length := by decide

theorem witness_RegisterWriteStoresOnlyItsBytes :
    let s := onTarget busyTarget
    s.Idle ∧ s.target = .reference busyTarget ∧ blockLegal s.params = true ∧ commandsDistinct s.params = true ∧
      AddrLegal s.params 0x1F ∧ (0x1F : Byte) ≠ s.params.regStatus ∧
      LengthLegal s.params (List.replicate 32 (0x55 : Byte)).length := by decide

theorem witness_ReadsLeaveTheReferenceTarget :
    let s := onTarget busyTarget
    (s.Idle ∧ s.target = .reference busyTarget ∧ blockLegal s.params = true ∧ commandsDistinct s.params = true ∧
      s.params.statusSource = .readStatusReg) ∧
    (∃ t, exec (.rdreg 0x05) s = .next t) ∧ (∃ t, exec (.rdbuf 0x1F 32) s = .next t) ∧ (∃ t, exec .rxpipe s = .next t) ∧
    (∃ t, exec .txdrain s = .next t) ∧ ∃ t, exec .txpulse s = .next t :=
  ⟨by decide, ⟨_, rfl⟩, ⟨_, rfl⟩, ⟨_, rfl⟩, ⟨_, rfl⟩, ⟨_, rfl⟩⟩

theorem witness_FifoOperationsMoveThePayloads :
    let s := onTarget busyTarget
    s.Idle ∧ s.target = .reference busyTarget ∧ blockLegal s.params = true ∧ commandsDistinct s.params = true ∧
      PayloadLenLegal s.params ∧ [1, 2, 3, (4 : Byte)].length = s.params.payloadLen ∧ LengthLegal s.params 0 ∧ LengthLegal s.params 32 := by decide

theorem witness_ClrirqClearsTheLatchedBits :
    let s := onTarget busyTarget
    s.Idle ∧ s.target = .reference busyTarget ∧ blockLegal s.params = true ∧ commandsDistinct s.params = true ∧
      LengthLegal s.params ([] : List Byte).length ∧ LengthLegal s.params (List.replicate 32 (0x10 : Byte)).length := by
  decide

/-- P3. -/
theorem witness_ReceiveReadsPipeThenPayload :
    let s := onTarget busyTarget
    s.Idle ∧ s.target = .reference busyTarget ∧ blockLegal s.params = true ∧ commandsDistinct s.params = true ∧
      s.params.statusSource = .readStatusReg ∧ busyTarget.rx = [(1, [0x11, 0x22, 0x33, 0x44])] ∧
      busyTarget.fl &&& 0x0E = 0 ∧ LengthLegal s.params [0x11, 0x22, 0x33, (0x44 : Byte)].length := by decide

/-- Device 0 and another, the greatest retry count and one more, a master, and no auto-ack. -/
theorem witness_BootConfiguresRetransmission :
    (defaultParams.autoAck = true ∧ defaultParams.role = .slave ∧ defaultParams.maxRetry ≤ 15 ∧ defaultParams.devNum ≠ 0) ∧
    (∀ P ∈ [{ defaultParams with devNum := 0, maxRetry := 15 }],
      P.autoAck = true ∧ P.role = .slave ∧ P.maxRetry ≤ 15 ∧ P.devNum = 0) ∧
    (∀ P ∈ [{ defaultParams with maxRetry := 16 }], P.autoAck = true ∧ P.role = .slave ∧ 15 < P.maxRetry) ∧
    (masterParams.autoAck = true ∧ masterParams.role = .master) ∧ noAck.autoAck = false := by decide

/-- Just outside either end of the legal widths, with the greatest retry count; and each refused item. -/
theorem witness_BootSkipsAnIllegalWidth :
    (∀ P ∈ [{ defaultParams with addrWidth := 2, maxRetry := 15 }, { masterParams with addrWidth := 6 }],
      let s : State := { State.resetWith P with inputs := bootProgram P ++ [.call .fltx] }
      s.Idle ∧ blockLegal s.params = true ∧ bootLegal s.params = true ∧ s.params.maxRetry ≤ 15 ∧
        ¬(3 ≤ s.params.addrWidth ∧ s.params.addrWidth ≤ 5) ∧ s.inputs = bootProgram s.params ++ [.call .fltx]) ∧
    ∀ u ∈ [Unpredicted.retryCount, .addressWidth, .payloadWidth, .deviceNumber, .powerDownByte, .rfSetupByte, .powerUpByte],
      ({ idle4 with inputs := [.unpredicted u, .call .fltx] } : State).Idle ∧
        ({ idle4 with inputs := [.unpredicted u, .call .fltx] } : State).inputs = .unpredicted u :: [.call .fltx] := by decide

/-- Either end of the legal widths; either end of the payload lengths and beyond; each device with an address, and the first
without. -/
theorem witness_BootProgramIsTheListing :
    (∀ P ∈ [{ masterParams with addrWidth := 3, payloadLen := 32 }, { masterParams with payloadLen := 1 },
        { masterParams with payloadLen := 0 }, { masterParams with payloadLen := 33 }, smallParams, defaultParams,
        { defaultParams with devNum := 2 }],
      3 ≤ P.addrWidth ∧ P.addrWidth ≤ 5 ∧ PowerDownLegal P ∧ RfSetupLegal P ∧ PowerUpLegal P) ∧
    (∀ P ∈ [{ masterParams with addrWidth := 3, payloadLen := 32 }, { masterParams with payloadLen := 1 }],
      P.role = .master ∧ PayloadLenLegal P) ∧
    (∀ P ∈ [{ masterParams with payloadLen := 0 }, { masterParams with payloadLen := 33 }],
      P.role = .master ∧ ¬PayloadLenLegal P) ∧
    (smallParams.role = .slave ∧ smallParams.devNum = 0) ∧ (defaultParams.role = .slave ∧ defaultParams.devNum = 1) ∧
    ∀ P ∈ [{ defaultParams with devNum := 2 }], P.role = .slave ∧ 2 ≤ P.devNum := by decide

theorem witness_BootProgramRunsToItsEnd :
    ∀ P ∈ [defaultParams, masterParams, smallParams],
      let s : State := { State.resetWith P with inputs := bootProgram P ++ [.call .fltx] }
      s.Idle ∧ blockLegal s.params = true ∧ bootLegal s.params = true ∧ buildLegal s.params = true ∧
        s.inputs = bootProgram s.params ++ [.call .fltx] := by decide

end Sys2Proof.Tests
end

/-! Proofs of the statements of 00_scope.md: what a step appends, which requests run, what an out-of-range parameter
refuses, and the boot program as a list. -/

/-! ## What a step appends (00_scope.md R5, R9) -/

section
namespace Sys2Proof.Machine

/-- `t` comes after `s`: the configuration is the same, and trace and results have only grown (00_scope.md R5, R9). -/
structure State.Extends (s t : State) : Prop where
  params : t.params = s.params
  trace : ∃ more, t.trace = s.trace ++ more
  results : ∃ more, t.results = s.results ++ more

/-- What appends events and one result. -/
theorem State.Extends.of_return {s t : State} (hp : t.params = s.params) (events : List Event) (v : Result)
    (ht : t.trace = s.trace ++ events) (hr : t.results = s.results ++ [v]) : s.Extends t :=
  ⟨hp, ⟨events, ht⟩, ⟨[v], hr⟩⟩

/-- What appends events only. -/
theorem State.Extends.of_events {s t : State} (hp : t.params = s.params) (events : List Event)
    (ht : t.trace = s.trace ++ events) (hr : t.results = s.results) : s.Extends t :=
  ⟨hp, ⟨events, ht⟩, ⟨[], by rw [hr, List.append_nil]⟩⟩

/-- Taking an input changes nothing of what the observer has seen. -/
theorem State.Extends.of_inputs {s t : State} {rest : List Input} (h : ({ s with inputs := rest } : State).Extends t) :
    s.Extends t :=
  ⟨h.params, h.trace, h.results⟩

/-- An operation of one frame appends the frame's events and its result (40_register_access.md R110). -/
theorem State.extends_runFrame (s : State) {r : FrameReq} (hr : r.shaped) (ret : Return) :
    s.Extends (s.runFrame r ret) := by
  obtain ⟨st, ins, tgt, dr, -, h⟩ := s.runFrame_spec r ret hr
  rw [h]
  exact .of_return rfl _ _ rfl rfl

/-- TXPULSE appends its three events and its empty result (43_chip_enable_ops.md R161). -/
theorem State.extends_runPulse (s : State) : s.Extends s.runPulse :=
  .of_return rfl [.ce .high, .dly s.params.tCeHoldUs, .ce .low] .nothing (by simp [State.runPulse]) rfl

/-- TXDRAIN up to its first exit test appends events, and its empty result if it returns
(43_chip_enable_ops.md R162). -/
theorem State.extends_runDrain (s : State) : s.Extends s.runDrain := by
  obtain ⟨st1, f, st2, v, tgt, dr, h⟩ := s.runDrain_spec
  rw [h]
  exact ⟨rfl, ⟨_, by simp only [drainNext, List.append_assoc]; rfl⟩, ⟨_, rfl⟩⟩

/-- A request carried out as one action only appends. -/
theorem exec_extends {i : Instr} {s t : State} (h : exec i s = .next t) : s.Extends t := by
  rw [exec_eq_execPlan] at h
  obtain ⟨-, ⟨r, ret, hp, rfl⟩ | ⟨-, rfl⟩ | ⟨-, rfl⟩⟩ := State.execPlan_cases h
  · exact s.extends_runFrame (planOf_frame hp).1 ret
  · exact s.extends_runPulse
  · exact s.extends_runDrain

/-- A request accepted in small steps appends its first event. -/
theorem State.startInstr_extends {i : Instr} {s t : State} (h : s.startInstr i = .next t) : s.Extends t := by
  obtain ⟨-, ⟨r, ret, -, rfl⟩ | ⟨-, rfl⟩ | ⟨-, rfl⟩⟩ := State.startPlan_cases h
  · exact .of_events rfl _ rfl rfl
  · exact .of_events rfl _ rfl rfl
  · exact .of_events rfl _ rfl rfl

/-- A small step appends at most one event and at most one result. -/
theorem State.smallStep_extends {s t : State} (h : s.smallStep = .next t) : s.Extends t := by
  rcases State.smallStep_cases h with ⟨-, rfl⟩ | ⟨-, -, rfl⟩ | ⟨-, ret, -, rfl⟩ | ⟨-, -, rfl⟩ | ⟨-, e, -, rfl⟩ |
    ⟨-, -, rfl⟩ | ⟨-, -, rfl⟩ | ⟨-, -, rfl⟩ | ⟨-, -, rfl⟩ | ⟨-, -, rfl⟩ | ⟨-, -, rfl⟩ | ⟨-, -, rfl⟩
  · exact .of_events rfl _ rfl rfl
  · exact .of_events rfl _ rfl rfl
  · exact .of_return rfl _ _ rfl rfl
  · exact .of_events rfl _ rfl rfl
  · exact .of_events rfl _ rfl rfl
  · exact .of_events rfl [] (List.append_nil _).symm rfl
  · exact .of_events rfl _ rfl rfl
  · exact .of_return rfl _ _ rfl rfl
  · exact .of_events rfl _ rfl rfl
  · exact .of_events rfl _ rfl rfl
  · exact .of_events rfl _ rfl rfl
  · exact .of_return rfl _ _ rfl rfl

/-- The trace after a reset event: CS(1) if chip-select was low, then CE(0) if chip-enable was high
(70_reset_and_hazards.md R200). -/
theorem State.resetEvent_trace (s : State) : s.resetEvent.trace =
    s.trace ++ ((if s.csn = .low then [.cs .high] else []) ++ (if s.ce = .high then [.ce .low] else [])) := by
  by_cases hcs : s.csn = .low <;> by_cases hce : s.ce = .high <;> simp [State.resetEvent, State.releaseLines, hcs, hce]

/-- A reset event returns no result (70_reset_and_hazards.md R201). -/
@[simp] theorem State.resetEvent_results (s : State) : s.resetEvent.results = s.results := by
  by_cases hcs : s.csn = .low <;> by_cases hce : s.ce = .high <;> simp [State.resetEvent, State.releaseLines, hcs, hce]

/-- A reset event leaves the configuration as it is. -/
@[simp] theorem State.resetEvent_params (s : State) : s.resetEvent.params = s.params := by
  by_cases hcs : s.csn = .low <;> by_cases hce : s.ce = .high <;> simp [State.resetEvent, State.releaseLines, hcs, hce]

/-- Every step only appends and keeps the configuration. -/
theorem step_extends {s t : State} (h : step s = .next t) : s.Extends t := by
  rcases step_cases h with ⟨rest, -, rfl⟩ | ⟨rest, -, h⟩ | h | ⟨-, i, rest, -, h⟩ | ⟨-, i, rest, -, h⟩ |
    ⟨-, us, rest, -, rfl⟩
  · exact .of_events (State.resetEvent_params _) _ (State.resetEvent_trace _) (State.resetEvent_results _)
  · exact (State.smallStep_extends h).of_inputs
  · exact State.smallStep_extends h
  · exact (exec_extends h).of_inputs
  · exact (State.startInstr_extends h).of_inputs
  · exact .of_events rfl _ rfl rfl

/-- Settles O10: every kind of step only appends. -/
theorem stepsOnlyAppendAndKeepTheConfiguration : Obligations.StepsOnlyAppendAndKeepTheConfiguration :=
  fun _ _ h => ⟨(step_extends h).params, (step_extends h).trace, (step_extends h).results⟩

end Sys2Proof.Machine
end

/-! ## Which requests run (00_scope.md R10) -/

section
namespace Sys2Proof.Machine

/-- A request has a plan exactly if it is well formed. -/
theorem wellFormed_iff_planOf {P : Params} {i : Instr} : wellFormed P i = true ↔ ∃ p, planOf P i = .ok p := by
  refine ⟨planOf_of_wellFormed, fun ⟨p, h⟩ => ?_⟩
  cases i <;>
    simp only [planOf, planRdreg, planRdbuf, planWrreg, planWrbuf, planCmd, planRdrx, planFltx, planFlrx,
      framePlan_ok_iff, registerPlan_ok_iff, planLdtx_ok_iff, planClrirq_ok_iff, planTxdrain_ok_iff] at h <;>
    simp only [wellFormed, decide_eq_true_eq]
  case ldtx w =>
    obtain ⟨hpl, hw, hlen, -⟩ := h
    exact ⟨hpl, hw, hw ▸ hlen⟩
  case rxpipe =>
    unfold planRxpipe at h
    cases hsrc : P.statusSource <;>
      simp only [hsrc, framePlan_ok_iff, registerPlan_ok_iff] at h <;> simp only [decide_eq_true_eq]
    · obtain ⟨haddr, hlen, -⟩ := h
      exact ⟨haddr, hlen⟩
    · exact h.1
  case clrirq =>
    obtain ⟨hmask, haddr, hlen, -⟩ := h
    exact ⟨haddr, hlen, hmask⟩
  case rdreg | rdbuf | wrreg | wrbuf =>
    obtain ⟨haddr, hlen, -⟩ := h
    exact ⟨haddr, hlen⟩
  case cmd | rdrx | fltx | flrx | txdrain => exact h.1

/-- An idle block carries out exactly what has a plan. -/
theorem State.execPlan_next_iff {s : State} (h : s.Idle) {p : Except Refusal Plan} :
    (∃ t, s.execPlan p = .next t) ↔ ∃ q, p = .ok q := by
  have hb : s.busy = false := by simp [State.busy, h.1, h.2]
  rcases p with r | (⟨r, ret⟩ | _ | _) <;> simp [State.execPlan, hb]

/-- Settles O11: an idle block carries out what has a plan, and exactly the well-formed requests have one. -/
theorem exactlyTheWellFormedRequestsRun : Obligations.ExactlyTheWellFormedRequestsRun := by
  intro s i hs
  rw [exec_eq_execPlan, State.execPlan_next_iff hs, wellFormed_iff_planOf]

end Sys2Proof.Machine
end

/-! ## What a parameter outside its range refuses (00_scope.md R10) -/

section
namespace Sys2Proof.Machine

/-- An idle block refuses a request with the reason its plan gives. -/
theorem exec_refused {i : Instr} {s : State} {r : Refusal} (hs : s.Idle) (h : planOf s.params i = .error r) :
    exec i s = .refused r := by
  rw [exec_eq_execPlan, h, s.execPlan_error hs]

/-- An idle block refuses every request that is not well formed. -/
theorem exec_refused_of_not_wellFormed {i : Instr} {s : State} (hs : s.Idle) (h : wellFormed s.params i = false) :
    ∃ r, exec i s = .refused r := by
  cases hp : planOf s.params i with
  | error r => exact ⟨r, exec_refused hs hp⟩
  | ok p =>
    have := wellFormed_iff_planOf.2 ⟨p, hp⟩
    simp [h] at this

/-- A frame reads `LEN_MAX` whatever its length. -/
theorem framePlan_lenMax {P : Params} (h : ¬LenMaxLegal P) (r : FrameReq) (ret : Return) :
    framePlan P r ret = .error (.parameterOutOfRange .lenMax) := by
  rw [framePlan, if_neg fun hl => h hl.1, if_neg h]

/-- A frame on a register whose address is legal reads `LEN_MAX` next. -/
theorem registerPlan_lenMax {P : Params} (h : ¬LenMaxLegal P) {addr : Byte} (ha : AddrLegal P addr) (r : FrameReq)
    (ret : Return) : registerPlan P addr r ret = .error (.parameterOutOfRange .lenMax) := by
  rw [registerPlan, if_pos ha, framePlan_lenMax h]

/-- LDTX checks `PAYLOAD_LEN` and the payload's length before `LEN_MAX` (41_fifo_sequencer.md R130). -/
theorem planLdtx_lenMax {P : Params} (h : ¬LenMaxLegal P) (hpl : PayloadLenLegal P) {w : List Byte}
    (hw : w.length = P.payloadLen) : planLdtx P w = .error (.parameterOutOfRange .lenMax) := by
  rw [planLdtx, if_neg (not_not_intro hpl), if_pos hw, framePlan_lenMax h]

/-- LDTX checks `PAYLOAD_LEN` first. -/
theorem planLdtx_payloadLen {P : Params} (h : ¬PayloadLenLegal P) (w : List Byte) :
    planLdtx P w = .error (.parameterOutOfRange .payloadLen) := by
  rw [planLdtx, if_pos h]

/-- RXPIPE reads the status register only with `ReadStatusReg` (42_status_ops.md R151). -/
theorem planRxpipe_lenMax {P : Params} (h : ¬LenMaxLegal P) (ha : P.statusSource = .nopCommand ∨ AddrLegal P P.regStatus) :
    planRxpipe P = .error (.parameterOutOfRange .lenMax) := by
  unfold planRxpipe
  cases hsrc : P.statusSource with
  | nopCommand => exact framePlan_lenMax h _ _
  | readStatusReg => exact registerPlan_lenMax h (ha.resolve_left (by simp [hsrc])) _ _

/-- CLRIRQ checks its mask and its register before `LEN_MAX` (42_status_ops.md R152). -/
theorem planClrirq_lenMax {P : Params} (h : ¬LenMaxLegal P) (hm : IrqMaskLegal P) (ha : AddrLegal P P.regStatus) :
    planClrirq P = .error (.parameterOutOfRange .lenMax) := by
  rw [planClrirq, if_pos hm, registerPlan_lenMax h ha]

/-- CLRIRQ checks its mask first (30_encoding.md R92). -/
theorem planClrirq_mask {P : Params} (h : ¬IrqMaskLegal P) : planClrirq P = .error (.parameterOutOfRange .irqClearMask) := by
  rw [planClrirq, if_neg h]

/-- TXDRAIN with its two registers legal: `LEN_MAX`, then the two bit numbers (43_chip_enable_ops.md R163). -/
theorem planTxdrain_of_addrLegal {P : Params} (hf : AddrLegal P P.regFifoStatus) (ha : AddrLegal P P.regStatus) :
    planTxdrain P =
      if ¬LengthLegal P 1 then .error (.parameterOutOfRange .lenMax)
      else if ¬BitLegal P.bitTxEmpty then .error (.parameterOutOfRange .bitTxEmpty)
      else if ¬BitLegal P.bitMaxRt then .error (.parameterOutOfRange .bitMaxRt)
      else .ok .drain := by
  rw [planTxdrain, if_neg (not_not_intro hf), if_neg (not_not_intro ha)]

/-- No operation but TXPULSE is well formed under a `LEN_MAX` outside its range. -/
theorem not_wellFormed_of_not_lenMaxLegal {P : Params} (h : ¬LenMaxLegal P) {i : Instr} (hi : i ≠ .txpulse) :
    wellFormed P i = false := by
  have hl : ∀ n, ¬LengthLegal P n := fun n hn => h hn.1
  cases i
  case txpulse => exact absurd rfl hi
  case rxpipe => cases hsrc : P.statusSource <;> simp only [wellFormed, hsrc, hl, and_false, decide_false]
  all_goals simp only [wellFormed, txdrainLegal, hl, and_false, false_and, decide_false]

/-- TXDRAIN reads `LEN_MAX` once its two registers can be read. -/
theorem planTxdrain_lenMax {P : Params} (hf : AddrLegal P P.regFifoStatus) (ha : AddrLegal P P.regStatus)
    (h : ¬LenMaxLegal P) : planTxdrain P = .error (.parameterOutOfRange .lenMax) := by
  rw [planTxdrain_of_addrLegal hf ha, if_pos fun hl => h hl.1]

/-- TXDRAIN then tests the bit of the first register read. -/
theorem planTxdrain_bitTxEmpty {P : Params} (hf : AddrLegal P P.regFifoStatus) (ha : AddrLegal P P.regStatus)
    (hl : LengthLegal P 1) (h : ¬BitLegal P.bitTxEmpty) :
    planTxdrain P = .error (.parameterOutOfRange .bitTxEmpty) := by
  rw [planTxdrain_of_addrLegal hf ha, if_neg (not_not_intro hl), if_pos h]

/-- TXDRAIN last tests the bit of the second register read. -/
theorem planTxdrain_bitMaxRt {P : Params} (hf : AddrLegal P P.regFifoStatus) (ha : AddrLegal P P.regStatus)
    (hl : LengthLegal P 1) (he : BitLegal P.bitTxEmpty) (h : ¬BitLegal P.bitMaxRt) :
    planTxdrain P = .error (.parameterOutOfRange .bitMaxRt) := by
  rw [planTxdrain_of_addrLegal hf ha, if_neg (not_not_intro hl), if_neg (not_not_intro he), if_pos h]

/-- Settles O12: each operation's plan gives the name of the first check that fails. -/
theorem parametersOutOfRangeAreRefused : Obligations.ParametersOutOfRangeAreRefused := by
  intro s hs
  refine ⟨fun h => ?_, fun h w => exec_refused hs (planLdtx_payloadLen h w),
    fun h => exec_refused hs (planClrirq_mask h),
    fun hf ha hl => ⟨fun h => exec_refused hs (planTxdrain_bitTxEmpty hf ha hl h),
      fun he h => exec_refused hs (planTxdrain_bitMaxRt hf ha hl he h)⟩,
    (exactlyTheWellFormedRequestsRun s .txpulse hs).2 rfl⟩
  exact ⟨fun op => exec_refused hs (framePlan_lenMax h _ _),
    exec_refused hs (framePlan_lenMax h _ _),
    exec_refused hs (framePlan_lenMax h _ _),
    fun n => exec_refused hs (framePlan_lenMax h _ _),
    fun addr ha =>
      ⟨exec_refused hs (registerPlan_lenMax h ha _ _),
       fun n => exec_refused hs (registerPlan_lenMax h ha _ _),
       fun b => exec_refused hs (registerPlan_lenMax h ha _ _),
       fun w => exec_refused hs (registerPlan_lenMax h ha _ _)⟩,
    fun hpl w hw => exec_refused hs (planLdtx_lenMax h hpl hw),
    fun ha => exec_refused hs (planRxpipe_lenMax h ha),
    fun hm ha => exec_refused hs (planClrirq_lenMax h hm ha),
    fun hf ha => exec_refused hs (planTxdrain_lenMax hf ha h),
    fun i hi => exec_refused_of_not_wellFormed hs (not_wellFormed_of_not_lenMaxLegal h hi)⟩

end Sys2Proof.Machine
end

/-! ## The boot program as a list (70_reset_and_hazards.md R203 to R214) -/

section
namespace Sys2Proof.Machine

/-- Step 2 without auto-ack (R205). -/
theorem bootStep2_noAck {P : Params} (ha : P.autoAck = false) :
    bootStep2 P = [.call (.wrreg P.regEnAa 0x00), .call (.wrreg P.regSetupRetr 0x00)] := by
  simp [bootStep2, ha, wr]

/-- Step 2 of a master (R205). -/
theorem bootStep2_master {P : Params} (ha : P.autoAck = true) (hr : P.role = .master) :
    bootStep2 P = [.call (.wrreg P.regEnAa 0x03), .call (.wrreg P.regSetupRetr 0x00)] := by
  simp [bootStep2, ha, hr, wr]

/-- Step 2 of a slave (R205; 00_scope.md R10). -/
theorem bootStep2_slave {P : Params} (ha : P.autoAck = true) (hr : P.role = .slave) :
    bootStep2 P = [.call (.wrreg P.regEnAa 0x01),
      if RetryLegal P then .call (.wrreg P.regSetupRetr (retrByte P)) else .unpredicted .retryCount] := by
  simp [bootStep2, ha, hr, wr]

/-- Step 2 is two items long. -/
theorem bootStep2_length (P : Params) : (bootStep2 P).length = 2 := by
  cases ha : P.autoAck
  · simp [bootStep2_noAck ha]
  · cases hr : P.role
    · simp [bootStep2_master ha hr]
    · simp [bootStep2_slave ha hr]

/-- Steps 1 and 2 are three items long. -/
theorem bootSteps_one_two_length (P : Params) : (bootStep1 P ++ bootStep2 P).length = 3 := by
  simp [bootStep1, bootStep2_length]

/-- The first three items are those of steps 1 and 2. -/
theorem bootProgram_take_three (P : Params) : (bootProgram P).take 3 = bootStep1 P ++ bootStep2 P := by
  simp only [bootProgram, List.append_assoc]
  rw [← List.append_assoc, ← bootSteps_one_two_length P, List.take_left]

/-- The delay field of the retransmission byte and a retry count of four bits do not overlap (42_status_ops.md R154). -/
theorem retrByte_toNat {P : Params} (h : P.maxRetry ≤ 15) :
    (retrByte P).toNat = (if P.devNum = 0 then 160 else 0) + P.maxRetry := by
  obtain ⟨n, hn⟩ : ∃ n : Fin 16, P.maxRetry = n := ⟨⟨P.maxRetry, by omega⟩, rfl⟩
  have hfield : ∀ k : Fin 16, ((10 : Byte) <<< 4 ||| BitVec.ofNat 8 k).toNat = 160 + k ∧
      ((0 : Byte) <<< 4 ||| BitVec.ofNat 8 k).toNat = 0 + k := by decide
  unfold retrByte ardOf
  rw [hn]
  split
  · exact (hfield n).1
  · exact (hfield n).2

/-- Settles O46: the first three items are steps 1 and 2, and step 8 writes the feature byte. -/
theorem bootConfiguresRetransmission : Obligations.BootConfiguresRetransmission := by
  intro P
  rw [bootProgram_take_three]
  refine ⟨fun ha hr hm => ⟨retrByte P, retrByte_toNat hm, ?_⟩, fun ha hr hm => ?_,
    fun ha hr => by rw [bootStep2_master ha hr], fun ha => by rw [bootStep2_noAck ha], ?_⟩
  · rw [bootStep2_slave ha hr, if_pos hm]
  · rw [bootStep2_slave ha hr, if_neg (by omega)]
  · simp [bootProgram, bootStep8, wr, bootFeatures]

/-- What follows step 6 when `CFG_PU_VALUE` is legal: steps 7 to 11 (R210 to R214). -/
def bootTail (P : Params) : List Input :=
  [.call (.wrreg P.regDynpd 0x00), .call (.wrreg P.regFeature (if P.autoAck = true then 0x00 else 0x01)),
   .call .fltx, .call .flrx, .call (.wrreg P.regConfig P.cfgPuValue), .delay P.tSettleUs]

/-- The program of a legal width and legal described bytes, around steps 2 and 6. -/
theorem bootProgram_of_legal {P : Params} (hw : WidthLegal P) (hd : PowerDownLegal P) (hf : RfSetupLegal P)
    (hu : PowerUpLegal P) : bootProgram P =
      [.call (.wrreg P.regConfig P.cfgPdValue)] ++ bootStep2 P ++
      [.call (.wrreg P.regRfCh 0x02), .call (.wrreg P.regRfSetup P.rfSetupValue),
       .call (.wrreg P.regSetupAw (BitVec.ofNat 8 (P.addrWidth - 2))), .call .clrirq] ++ bootStep6 P ++ bootTail P := by
  simp only [bootProgram, bootStep1, bootStep3, bootStep4, bootStep5, bootStep7, bootStep8, bootStep9, bootStep10,
    bootStep11, bootFeatures, bootTail, wr, if_pos hw, if_pos hd, if_pos hf, if_pos hu, List.append_assoc,
    List.cons_append, List.nil_append]

/-- Step 6 of a master with a legal payload length (R209). -/
theorem bootStep6_master {P : Params} (hw : WidthLegal P) (hr : P.role = .master) (hpl : PayloadLenLegal P) :
    bootStep6 P =
      [.call (.wrreg P.regEnRxaddr 0x03),
       .call (.wrbuf P.regRxAddrP0 (List.take P.addrWidth [0x0F, 0xB3, 0x47, 0x17, 0x1C])),
       .call (.wrbuf P.regRxAddrP1 (List.take P.addrWidth [0xD7, 0x1C, 0xCA, 0x3B, 0x8A])),
       .call (.wrreg P.regRxPwP0 (BitVec.ofNat 8 P.payloadLen)), .call (.wrreg P.regRxPwP1 (BitVec.ofNat 8 P.payloadLen)),
       .call (.wrbuf P.regTxAddr (List.replicate P.addrWidth 0x00))] := by
  rw [bootStep6, if_pos hw, hr]
  simp only [bootStep6Master, if_pos hpl]
  rfl

/-- Step 6 of a master whose payload length is no payload width (R209, 00_scope.md R10). -/
theorem bootStep6_master_payloadWidth {P : Params} (hw : WidthLegal P) (hr : P.role = .master)
    (hpl : ¬PayloadLenLegal P) : bootStep6 P =
      [.call (.wrreg P.regEnRxaddr 0x03),
       .call (.wrbuf P.regRxAddrP0 (List.take P.addrWidth [0x0F, 0xB3, 0x47, 0x17, 0x1C])),
       .call (.wrbuf P.regRxAddrP1 (List.take P.addrWidth [0xD7, 0x1C, 0xCA, 0x3B, 0x8A])),
       .unpredicted .payloadWidth, .call (.wrbuf P.regTxAddr (List.replicate P.addrWidth 0x00))] := by
  rw [bootStep6, if_pos hw, hr]
  simp only [bootStep6Master, if_neg hpl]
  rfl

/-- Step 6 of a slave that has an address in the table (R209). -/
theorem bootStep6_slave {P : Params} (hw : WidthLegal P) (hr : P.role = .slave) (hd : P.devNum ≤ 1) :
    bootStep6 P =
      [.call (.wrreg P.regEnRxaddr 0x01),
       .call (.wrbuf P.regRxAddrP0 ((pipeAddress P.devNum).take P.addrWidth)),
       .call (.wrbuf P.regTxAddr ((pipeAddress P.devNum).take P.addrWidth)), .call (.wrreg P.regRxPwP0 0x00)] := by
  rw [bootStep6, if_pos hw, hr]
  exact if_pos hd

/-- Step 6 of a slave that has none (R209). -/
theorem bootStep6_slave_deviceNumber {P : Params} (hw : WidthLegal P) (hr : P.role = .slave) (hd : ¬P.devNum ≤ 1) :
    bootStep6 P = [.unpredicted .deviceNumber] := by
  rw [bootStep6, if_pos hw, hr]
  exact if_neg hd

/-- The address table (R209). -/
theorem pipeAddress_eq {d : Nat} {address : List Byte}
    (h : d = 0 ∧ address = [0x0F, 0xB3, 0x47, 0x17, 0x1C] ∨ d = 1 ∧ address = [0xD7, 0x1C, 0xCA, 0x3B, 0x8A]) :
    d ≤ 1 ∧ pipeAddress d = address := by
  rcases h with ⟨rfl, rfl⟩ | ⟨rfl, rfl⟩
  · exact ⟨zero_le_one, rfl⟩
  · exact ⟨le_rfl, rfl⟩

/-- The first item is step 1's (R204). -/
theorem bootProgram_head (P : Params) : (bootProgram P).head? =
    some (if PowerDownLegal P then .call (.wrreg P.regConfig P.cfgPdValue) else .unpredicted .powerDownByte) := by
  simp only [bootProgram, bootStep1, wr, List.append_assoc, List.cons_append, List.head?_cons]

/-- After the three items of steps 1 and 2 come the two of step 3 (R206). -/
theorem bootProgram_drop_three (P : Params) : (bootProgram P).drop 3 =
    bootStep3 P ++ bootStep4 P ++ bootStep5 ++ bootStep6 P ++ bootStep7 P ++ bootStep8 P ++ bootStep9 ++ bootStep10 P ++
      bootStep11 P := by
  simp only [bootProgram, List.append_assoc]
  rw [← List.append_assoc, ← bootSteps_one_two_length P, List.drop_left]

/-- Settles O48: the program is the items around steps 2 and 6, and step 6 those of its role and device. -/
theorem bootProgramIsTheListing : Obligations.BootProgramIsTheListing := by
  refine ⟨fun P h3 h5 hd hf hu => ?_, fun P => ⟨bootProgram_head P, ?_, ?_, ?_⟩⟩
  · have hw : WidthLegal P := ⟨h3, h5⟩
    refine ⟨BitVec.ofNat 8 (P.addrWidth - 2), BitVec.ofNat 8 P.payloadLen, ?_, BitVec.toNat_ofNat _ _,
      fun hr hpl => ?_, fun hr hpl => ?_, fun address hr haddr => ?_, fun hr hdev => ?_⟩
    · rw [BitVec.toNat_ofNat]; omega
    · rw [bootProgram_of_legal hw hd hf hu, bootStep6_master hw hr hpl]
      simp only [bootTail, List.append_assoc, List.cons_append, List.nil_append]
    · refine ⟨.call (.wrbuf P.regTxAddr (List.replicate P.addrWidth 0x00)) :: bootTail P, ?_⟩
      rw [bootProgram_of_legal hw hd hf hu, bootStep6_master_payloadWidth hw hr hpl]
      simp only [List.append_assoc, List.cons_append, List.nil_append]
    · obtain ⟨hdev, rfl⟩ := pipeAddress_eq haddr
      rw [bootProgram_of_legal hw hd hf hu, bootStep6_slave hw hr hdev]
      simp only [bootTail, List.append_assoc, List.cons_append, List.nil_append]
    · refine ⟨bootTail P, ?_⟩
      rw [bootProgram_of_legal hw hd hf hu, bootStep6_slave_deviceNumber hw hr (by omega)]
      simp only [List.append_assoc, List.cons_append, List.nil_append]
  · rw [show 3 = 3 + 0 from rfl, ← List.getElem?_drop, bootProgram_drop_three]; rfl
  · rw [show 4 = 3 + 1 from rfl, ← List.getElem?_drop, bootProgram_drop_three]; rfl
  · exact ⟨_, List.append_assoc _ (bootStep10 P) (bootStep11 P)⟩

end Sys2Proof.Machine
end

/-! Proofs of the statements of 10_state.md: reset, the invariant R34 under every step and in every run from reset, and
the latches of an idle block. -/

/-! ## Reset (10_state.md R33) -/

section
namespace Sys2Proof.Machine

/-- Outside a frame the latch relations that remain are R34 (a), (c) and (d). -/
theorem State.latchesAgree_of_idle {s : State} (hp : s.phase = .idle) (hcsn : s.csn = .high)
    (hfc : s.opk = .fc → s.len = 0) (hfr : s.opk = .fr → s.rbuf.length = s.idx) : s.latchesAgree := by
  exact ⟨by simp [hp, hcsn], fun hbusy => absurd hp hbusy, hfc, hfr, by simp [hp], by simp [hp], by simp [hp],
    fun hbusy => absurd hp hbusy⟩

/-- The invariant holds at reset, whatever the configuration, the inputs and the target. -/
theorem State.inv_atReset (P : Params) (inputs : List Input) {target : Target} (h : target.wf = true) :
    ({ State.resetWith P with inputs := inputs, target := target } : State).Inv :=
  ⟨State.latchesAgree_of_idle rfl rfl (fun _ => rfl) (fun _ => rfl), ⟨rfl, rfl⟩, rfl, h⟩

/-- Settles O1: the three values are fields of the reset state. -/
theorem resetReleasesTheLines : Obligations.ResetReleasesTheLines :=
  fun _ => ⟨rfl, rfl, rfl⟩

/-- Settles O2: the empty inputs and the target without a script are one case. -/
theorem resetMeetsTheInvariants : Obligations.ResetMeetsTheInvariants :=
  ⟨State.inv_atReset defaultParams [] (State.resetWith_target_wf defaultParams),
    fun P => State.inv_atReset P [] (State.resetWith_target_wf P)⟩

end Sys2Proof.Machine
end

/-! ## The latch relations, operation by operation (10_state.md R34 a to d) -/

section
namespace Sys2Proof.Machine

variable {s : State}

/-- S1 sets every latch from the request (40_register_access.md R111). -/
theorem State.accept_latchesAgree {r : FrameReq} (hr : r.shaped) (hlen : r.len ≤ s.params.lenMax) :
    (s.accept r).latchesAgree := by
  obtain ⟨hfw, hfc⟩ := hr
  exact ⟨by simp, fun _ => ⟨Nat.zero_le _, hlen⟩, fun hk => (hfc hk).1, fun _ => rfl, fun _ => rfl, by simp, by simp,
    fun _ => hfw⟩

/-- After an exchange the frame goes on with data exchanges while `IDX < LEN`, and the latch relations are R34's. -/
theorem State.latchesAgree_of_exchange (hcsn : s.csn = .low) (hp : s.phase = if s.idx < s.len then .data else .fin)
    (hle : s.idx ≤ s.len) (hmax : s.len ≤ s.params.lenMax) (hfc : s.opk = .fc → s.len = 0)
    (hfr : s.opk = .fr → s.rbuf.length = s.idx) (hfw : s.opk = .fw → s.wbuf.length = s.len) : s.latchesAgree := by
  by_cases hlt : s.idx < s.len
  · rw [if_pos hlt] at hp
    exact ⟨by simp [hp, hcsn], fun _ => ⟨hle, hmax⟩, hfc, hfr, by simp [hp], fun _ => hlt, by simp [hp], fun _ => hfw⟩
  · rw [if_neg hlt] at hp
    exact ⟨by simp [hp, hcsn], fun _ => ⟨hle, hmax⟩, hfc, hfr, by simp [hp], by simp [hp], fun _ => by omega,
      fun _ => hfw⟩

/-- Chip-select is low inside a frame (R34 a). -/
theorem State.latchesAgree.csn_low (h : s.latchesAgree) (hp : s.phase ≠ .idle) : s.csn = .low := by
  cases hcsn : s.csn with
  | low => rfl
  | high => exact absurd (h.1.2 hcsn) hp

/-- S2 goes on to the data exchanges, or to the end of a frame that has none (40_register_access.md R112). -/
theorem State.commandExchange_latchesAgree (h : s.latchesAgree) (hp : s.phase = .cmd) :
    s.commandExchange.latchesAgree := by
  have hbusy : s.phase ≠ .idle := by simp [hp]
  have hlow := h.csn_low hbusy
  obtain ⟨-, hbound, hfc, hfr, hcmd, -, -, hfw⟩ := h
  exact State.latchesAgree_of_exchange hlow (by simp [hcmd hp]) (hbound hbusy).1 (hbound hbusy).2 hfc hfr (hfw hbusy)

/-- S3 does one data exchange more and ends at `LEN` (40_register_access.md R113). -/
theorem State.dataExchange_latchesAgree (h : s.latchesAgree) (hp : s.phase = .data) :
    s.dataExchange.latchesAgree := by
  have hbusy : s.phase ≠ .idle := by simp [hp]
  have hlow := h.csn_low hbusy
  obtain ⟨-, hbound, hfc, hfr, -, hdata, -, hfw⟩ := h
  have hlt : s.idx < s.len := hdata hp
  refine State.latchesAgree_of_exchange hlow ?_ hlt (hbound hbusy).2 hfc (fun hk => ?_) (hfw hbusy)
  · rw [State.dataExchange_phase, State.dataExchange_idx, State.dataExchange_len]
    by_cases hlast : s.idx + 1 = s.len
    · rw [if_pos hlast, if_neg (by omega)]
    · rw [if_neg hlast, if_pos (by omega)]
  · have hk : s.opk = .fr := hk
    simp [hk, hfr hk]

/-- S4 raises chip-select and leaves `PHASE` idle (40_register_access.md R114). -/
theorem State.endFrame_latchesAgree (h : s.latchesAgree) : s.endFrame.latchesAgree := by
  obtain ⟨-, -, hfc, hfr, -⟩ := h
  exact State.latchesAgree_of_idle rfl rfl hfc hfr

/-- A whole frame leaves the latches of a frame that has ended (40_register_access.md R110). -/
theorem frameDone_latchesAgree {r : FrameReq} (hr : r.shaped) (st : Byte) {ins : List Byte}
    (hlen : ins.length = r.len) (tgt : Target) (dr : Nat) : (frameDone s r st ins tgt dr).latchesAgree :=
  State.latchesAgree_of_idle rfl rfl (fun hk => (hr.2 hk).1) (fun hk => by
    have hk : r.kind = .fr := hk
    simp [frameDone, hk, hlen])

end Sys2Proof.Machine
end

/-! ## The operation a frame belongs to (10_state.md R22) -/

section
namespace Sys2Proof.Machine

/-- The frame in progress belongs to an operation of one frame, with chip-enable low, or is a one-byte read of TXDRAIN,
with chip-enable high. -/
def State.frameOwned (s : State) : Prop :=
  (∃ ret, s.activity = .frame ret ∧ s.ce = .low) ∨
  ((s.activity = .drain .readFifo ∨ ∃ e, s.activity = .drain (.readStatus e)) ∧
    s.ce = .high ∧ txdrainLegal s.params = true ∧ s.opk = .fr ∧ s.len = 1)

/-- Inside a frame, to agree with the operation in progress is to belong to one: neither side looks at which `PHASE` it
is. -/
theorem State.activityAgrees_iff_frameOwned {s : State} (hp : s.phase ≠ .idle) :
    s.activityAgrees ↔ s.frameOwned := by
  unfold State.activityAgrees State.frameOwned
  split <;> simp_all

end Sys2Proof.Machine
end

/-! ## The bracketing of the trace (40_register_access.md R121 a, 43_chip_enable_ops.md R165 a, c) -/

section
namespace Sys2Proof.Machine

/-- Events that are allowed at the lines as they are, and lead to the lines as they then are, keep the trace
bracketed. -/
theorem State.bracketed.append {s t : State} (h : s.bracketed) {events : List Event} {csn ce csn' ce' : Level}
    (ht : t.trace = s.trace ++ events) (hcsn : s.csn = csn) (hce : s.ce = ce)
    (hs : scan (csn, ce) events = some (csn', ce')) (hcsn' : t.csn = csn') (hce' : t.ce = ce') : t.bracketed := by
  rw [State.bracketed] at h ⊢
  rw [ht, scan_append, h, hcsn, hce, hcsn', hce']
  exact hs

/-- A byte exchange is allowed inside a bracket. -/
theorem scan_exchange (ce : Level) (out answer : Byte) : scan (.low, ce) [.x out answer] = some (.low, ce) := rfl

/-- Chip-select may go low where it is high. -/
theorem scan_select (ce : Level) : scan (.high, ce) [.cs .low] = some (.low, ce) := rfl

/-- Chip-select may go high where it is low. -/
theorem scan_release (ce : Level) : scan (.low, ce) [.cs .high] = some (.high, ce) := rfl

/-- A delay is allowed outside a bracket. -/
theorem scan_delay (ce : Level) (us : Nat) : scan (.high, ce) [.dly us] = some (.high, ce) := rfl

end Sys2Proof.Machine
end

/-! ## The canonical form of the reference target's register map (log entry 21) -/

section
namespace Sys2Proof.Machine

/-- The data exchanges of a frame keep the canonical form. -/
theorem State.dataExchanges_target_wf (n : Nat) {s : State} (h : s.target.wf = true) :
    (State.dataExchanges n s).target.wf = true := by
  induction n generalizing s with
  | zero => exact h
  | succ n ih => exact ih (Target.exchange_wf s.params s.dataOut h)

/-- A whole frame keeps the canonical form. -/
theorem State.frame_target_wf {s : State} (r : FrameReq) (h : s.target.wf = true) : (s.frame r).target.wf = true :=
  Target.deselect_wf _ (State.dataExchanges_target_wf r.len (Target.exchange_wf _ _ (Target.select_wf h)))

end Sys2Proof.Machine
end

/-! ## Every step keeps the invariant (10_state.md R34) -/

section
namespace Sys2Proof.Machine

variable {s t : State}

/-- Chip-select is high outside a frame (R34 a). -/
theorem State.Inv.csn_high (h : s.Inv) (hp : s.phase = .idle) : s.csn = .high := by
  obtain ⟨hl, -⟩ := h
  exact hl.1.1 hp

/-- An idle block keeps chip-enable low (10_state.md R22). -/
theorem State.Inv.ce_low (h : s.Inv) (ha : s.activity = .idle) : s.ce = .low := by
  obtain ⟨-, hact, -⟩ := h
  simp only [State.activityAgrees, ha] at hact
  exact hact.2

/-- S1: a frame of an operation begins (40_register_access.md R111). -/
theorem State.Inv.of_accept (h : s.Inv) (hp : s.phase = .idle) {r : FrameReq} (hr : r.shaped)
    (hlen : r.len ≤ s.params.lenMax) {a : Activity} (ha : ({ s.accept r with activity := a } : State).frameOwned) :
    ({ s.accept r with activity := a } : State).Inv := by
  have hcsn := h.csn_high hp
  obtain ⟨-, -, hb, hw⟩ := h
  exact ⟨State.accept_latchesAgree hr hlen, (State.activityAgrees_iff_frameOwned (by simp)).2 ha,
    hb.append rfl hcsn rfl (scan_select s.ce) rfl rfl, Target.select_wf hw⟩

/-- An exchange inside a frame keeps the invariant if it stays inside the frame, keeps the latch relations and leaves the
frame to its operation. -/
theorem State.Inv.of_exchange (h : s.Inv) (hp : s.phase ≠ .idle) {out : Byte} (hl : t.latchesAgree)
    (hp' : t.phase ≠ .idle) (howned : s.frameOwned → t.frameOwned)
    (htrace : t.trace = (s.exchanged out).trace) (htarget : t.target = (s.exchanged out).target)
    (hcsn : t.csn = s.csn) (hce : t.ce = s.ce) : t.Inv := by
  obtain ⟨hl', hact, hb, hw⟩ := h
  have hlow := hl'.csn_low hp
  refine ⟨hl, (State.activityAgrees_iff_frameOwned hp').2 (howned ((State.activityAgrees_iff_frameOwned hp).1 hact)),
    hb.append htrace hlow rfl (scan_exchange s.ce out _) (hcsn.trans hlow) hce, ?_⟩
  rw [htarget]
  exact Target.exchange_wf s.params out hw

/-- S2 (40_register_access.md R112). -/
theorem State.Inv.commandExchange (h : s.Inv) (hp : s.phase = .cmd) : s.commandExchange.Inv := by
  refine h.of_exchange (out := s.cmd) (by simp [hp]) (State.commandExchange_latchesAgree h.1 hp) ?_ id rfl rfl rfl rfl
  rw [State.commandExchange_phase]
  split <;> simp

/-- S3 (40_register_access.md R113). -/
theorem State.Inv.dataExchange (h : s.Inv) (hp : s.phase = .data) : s.dataExchange.Inv := by
  refine h.of_exchange (out := s.dataOut) (by simp [hp]) (State.dataExchange_latchesAgree h.1 hp) ?_ id rfl rfl rfl rfl
  rw [State.dataExchange_phase]
  split <;> simp

/-- S4: a frame ends and its operation goes on as `a` (40_register_access.md R114). -/
theorem State.Inv.of_endFrame (h : s.Inv) (hp : s.phase ≠ .idle) {a : Activity} {rs : List Result}
    (ha : ({ s.endFrame with activity := a, results := rs } : State).activityAgrees) :
    ({ s.endFrame with activity := a, results := rs } : State).Inv := by
  obtain ⟨hl, -, hb, hw⟩ := h
  have hl' : s.endFrame.latchesAgree := State.endFrame_latchesAgree hl
  exact ⟨hl', ha, hb.append rfl (hl.csn_low hp) rfl (scan_release s.ce) rfl rfl,
    Target.deselect_wf s.params hw⟩

/-- A delay outside a frame, after which the operation goes on as `a` (60_exceptions.md R188). -/
theorem State.Inv.of_delay (h : s.Inv) (hp : s.phase = .idle) (us : Nat) {a : Activity}
    (ha : ({ s.delay us with activity := a } : State).activityAgrees) :
    ({ s.delay us with activity := a } : State).Inv := by
  have hcsn := h.csn_high hp
  obtain ⟨hl, -, hb, hw⟩ := h
  exact ⟨hl, ha, hb.append rfl hcsn rfl (scan_delay s.ce us) hcsn rfl, hw⟩

/-- Chip-enable goes high where it is low, and the operation goes on as `a` (43_chip_enable_ops.md R161, R162). -/
theorem State.Inv.of_raise (h : s.Inv) (hp : s.phase = .idle) (hce : s.ce = .low) {a : Activity}
    (ha : ({ s.setEnable .high with activity := a } : State).activityAgrees) :
    ({ s.setEnable .high with activity := a } : State).Inv := by
  have hcsn := h.csn_high hp
  obtain ⟨hl, -, hb, hw⟩ := h
  exact ⟨hl, ha, hb.append (csn' := .high) rfl hcsn hce rfl hcsn rfl, hw⟩

/-- Chip-enable goes low where it is high, and the operation returns (43_chip_enable_ops.md R161, R162). -/
theorem State.Inv.of_lower (h : s.Inv) (hp : s.phase = .idle) (hce : s.ce = .high) (v : Result) :
    ((s.setEnable .low).finish v).Inv := by
  have hcsn := h.csn_high hp
  obtain ⟨hl, -, hb, hw⟩ := h
  exact ⟨hl, ⟨hp, rfl⟩, hb.append (csn' := .high) rfl hcsn hce rfl hcsn rfl, hw⟩

/-- A small step keeps the invariant: S2, S3 and S4 of a frame, and the events of TXPULSE and TXDRAIN between frames. -/
theorem State.Inv.smallStep (h : s.Inv) (hstep : s.smallStep = .next t) : t.Inv := by
  have hact := h.2.1
  rcases State.smallStep_cases hstep with ⟨hp, rfl⟩ | ⟨hp, -, rfl⟩ | ⟨hp, ret, ha, rfl⟩ | ⟨hp, ha, rfl⟩ |
    ⟨hp, e, ha, rfl⟩ | ⟨-, ha, rfl⟩ | ⟨hp, ha, rfl⟩ | ⟨hp, ha, rfl⟩ | ⟨hp, ha, rfl⟩ | ⟨hp, ha, rfl⟩ |
    ⟨hp, ⟨e, ha⟩, rfl⟩ | ⟨hp, ha, rfl⟩
  case inl => exact h.commandExchange hp
  case inr.inl => exact h.dataExchange hp
  all_goals simp only [State.activityAgrees, ha] at hact
  · exact h.of_endFrame (by simp [hp]) ⟨rfl, hact.2⟩
  · obtain ⟨hce, hlegal, -⟩ := hact
    exact h.of_endFrame (by simp [hp]) ⟨hce, hlegal, fun hbusy => absurd rfl hbusy⟩
  · obtain ⟨hce, hlegal, -⟩ := hact
    refine h.of_endFrame (by simp [hp]) ?_
    cases e || maxRtOf s.params (s.rbuf.headD 0) with
    | true => exact ⟨rfl, hce, hlegal⟩
    | false => exact ⟨hce, hlegal, fun hbusy => absurd rfl hbusy⟩
  · exact h
  · exact h.of_delay hp _ hact
  · exact h.of_lower hp hact.2 _
  · obtain ⟨-, hce, hlegal⟩ := hact
    exact h.of_delay hp _ ⟨hce, hlegal, fun hbusy => absurd hp hbusy⟩
  · obtain ⟨hce, hlegal, -⟩ := hact
    exact h.of_accept hp (readOne_shaped _ _) (one_le_lenMax_of_txdrainLegal hlegal)
      (.inr ⟨.inl ha, hce, hlegal, rfl, rfl⟩)
  · obtain ⟨hce, hlegal, -⟩ := hact
    exact h.of_accept hp (readOne_shaped _ _) (one_le_lenMax_of_txdrainLegal hlegal)
      (.inr ⟨.inr ⟨e, ha⟩, hce, hlegal, rfl, rfl⟩)
  · exact h.of_lower hp hact.2.1 _

/-- A request accepted in small steps keeps the invariant. -/
theorem State.Inv.startInstr (h : s.Inv) {i : Instr} (hstart : s.startInstr i = .next t) : t.Inv := by
  obtain ⟨hb, hcases⟩ := State.startPlan_cases hstart
  obtain ⟨hp, ha⟩ := State.idle_of_not_busy hb
  have hce := h.ce_low ha
  obtain ⟨r, ret, hplan, rfl⟩ | ⟨-, rfl⟩ | ⟨hplan, rfl⟩ := hcases
  · obtain ⟨hr, hlen⟩ := planOf_frame hplan
    exact h.of_accept hp hr hlen (.inl ⟨ret, rfl, hce⟩)
  · exact h.of_raise hp hce ⟨hp, rfl⟩
  · exact h.of_raise hp hce ⟨hp, rfl, (planOf_drain hplan).2⟩

/-- A whole frame leaves chip-enable as it is (40_register_access.md R110). -/
theorem State.frame_ce (s : State) {r : FrameReq} (hr : r.shaped) : (s.frame r).ce = s.ce := by
  obtain ⟨st, ins, tgt, dr, -, h⟩ := s.frame_spec r hr
  rw [h]
  rfl

/-- A whole frame leaves the configuration as it is (00_scope.md R5). -/
theorem State.frame_params (s : State) {r : FrameReq} (hr : r.shaped) : (s.frame r).params = s.params := by
  obtain ⟨st, ins, tgt, dr, -, h⟩ := s.frame_spec r hr
  rw [h]
  rfl

/-- A whole frame outside a frame, whichever operation `b` asks for it and however, as `a`, that goes on after it
(40_register_access.md R110). -/
theorem State.Inv.of_frame {b : Activity} (h : ({ s with activity := b } : State).Inv) (hp : s.phase = .idle)
    {r : FrameReq} (hr : r.shaped) {a : Activity} {rs : List Result}
    (ha : ({ s.frame r with activity := a, results := rs } : State).activityAgrees) :
    ({ s.frame r with activity := a, results := rs } : State).Inv := by
  have hcsn : s.csn = .high := h.csn_high hp
  obtain ⟨-, -, hb, hw⟩ := h
  have hw' := State.frame_target_wf (s := s) r hw
  obtain ⟨st, ins, tgt, dr, hlen, hframe⟩ := s.frame_spec r hr
  rw [hframe] at ha hw' ⊢
  exact ⟨frameDone_latchesAgree (s := s) hr st hlen tgt dr, ha,
    hb.append rfl hcsn rfl (scan_frameEvents s.ce _ _ _) rfl rfl, hw'⟩

/-- An operation of one frame as one action keeps the invariant of an idle block. -/
theorem State.Inv.runFrame (h : s.Inv) (hs : s.Idle) {r : FrameReq} (hr : r.shaped) (ret : Return) :
    (s.runFrame r ret).Inv :=
  State.Inv.of_frame (b := s.activity) h hs.1 hr ⟨rfl, (s.frame_ce hr).trans (h.ce_low hs.2)⟩

/-- TXPULSE as one action keeps the invariant of an idle block: CE(1), DLY and CE(0) one after another. -/
theorem State.Inv.runPulse (h : s.Inv) (hs : s.Idle) : s.runPulse.Inv := by
  obtain ⟨hp, ha⟩ := hs
  have hraised := h.of_raise (a := .pulse .raised) hp (h.ce_low ha) ⟨hp, rfl⟩
  have hheld := hraised.of_delay (a := .pulse .held) hp s.params.tCeHoldUs ⟨hp, rfl⟩
  exact hheld.of_lower hp rfl .nothing

/-- One whole poll of TXDRAIN, whichever part of TXDRAIN comes next (43_chip_enable_ops.md R163). -/
theorem State.Inv.of_poll (h : ({ s with activity := .drain .readFifo } : State).Inv) (hp : s.phase = .idle)
    {a : Activity} (ha : a = .drain .readFifo ∨ a = .drain .lower) : ({ s.poll with activity := a } : State).Inv := by
  have hfifo := readOne_shaped s.params s.params.regFifoStatus
  have hstatus := readOne_shaped s.params s.params.regStatus
  obtain ⟨hce, hlegal, -⟩ : s.ce = .high ∧ txdrainLegal s.params = true ∧ _ := h.2.1
  have hce' : s.pollFifo.ce = .high := (s.frame_ce hfifo).trans hce
  have hlegal' : txdrainLegal s.pollFifo.params = true := (congrArg txdrainLegal (s.frame_params hfifo)).trans hlegal
  have hread : ({ s.pollFifo with activity := .drain (.readStatus s.pollEmpty) } : State).Inv :=
    h.of_frame hp hfifo ⟨hce', hlegal', fun hbusy => absurd rfl hbusy⟩
  have hce'' : s.poll.ce = .high := (s.pollFifo.frame_ce hstatus).trans hce'
  have hlegal'' : txdrainLegal s.poll.params = true :=
    (congrArg txdrainLegal (s.pollFifo.frame_params hstatus)).trans hlegal'
  obtain rfl | rfl := ha
  · exact hread.of_frame rfl hstatus ⟨hce'', hlegal'', fun hbusy => absurd rfl hbusy⟩
  · exact hread.of_frame rfl hstatus ⟨rfl, hce'', hlegal''⟩

/-- TXDRAIN up to its first exit test keeps the invariant of an idle block: CE(1), DLY and a poll, and CE(0) if the test
holds. -/
theorem State.Inv.runDrain (h : s.Inv) (hs : s.Idle) (hlegal : txdrainLegal s.params = true) : s.runDrain.Inv := by
  obtain ⟨hp, ha⟩ := hs
  have hraised := h.of_raise (a := .drain .raised) hp (h.ce_low ha) ⟨hp, rfl, hlegal⟩
  have hheld : ({ s.raiseDrain with activity := .drain .readFifo } : State).Inv :=
    hraised.of_delay hp s.params.tCeHoldUs ⟨rfl, hlegal, fun hbusy => absurd hp hbusy⟩
  unfold State.runDrain
  split
  · have hpolled := hheld.of_poll hp (.inr rfl)
    obtain ⟨-, hce, -⟩ : s.raiseDrain.poll.phase = .idle ∧ s.raiseDrain.poll.ce = .high ∧ _ := hpolled.2.1
    exact hpolled.of_lower rfl hce .nothing
  · exact hheld.of_poll hp (.inl rfl)

/-- A request carried out as one action keeps the invariant. -/
theorem State.Inv.exec (h : s.Inv) {i : Instr} (hexec : exec i s = .next t) : t.Inv := by
  rw [exec_eq_execPlan] at hexec
  obtain ⟨hb, hcases⟩ := State.execPlan_cases hexec
  have hs := State.idle_of_not_busy hb
  obtain ⟨r, ret, hplan, rfl⟩ | ⟨-, rfl⟩ | ⟨hplan, rfl⟩ := hcases
  · exact h.runFrame hs (planOf_frame hplan).1 ret
  · exact h.runPulse hs
  · exact h.runDrain hs (planOf_drain hplan).2

/-- A reset event releases both lines (70_reset_and_hazards.md R200). -/
theorem State.resetEvent_lines (s : State) : s.resetEvent.csn = .high ∧ s.resetEvent.ce = .low := by
  cases hcsn : s.csn <;> cases hce : s.ce <;> simp [State.resetEvent, State.releaseLines, hcsn, hce]

/-- A reset event keeps the canonical form: all the target may see of it is chip-select going high. -/
theorem State.resetEvent_target_wf (h : s.target.wf = true) : s.resetEvent.target.wf = true := by
  have hw := Target.deselect_wf s.params h
  cases hcsn : s.csn <;> cases hce : s.ce <;> simp [State.resetEvent, State.releaseLines, hcsn, hce, h, hw]

/-- The reset event keeps the invariant (70_reset_and_hazards.md R200, R201). -/
theorem State.Inv.resetEvent (h : s.Inv) : s.resetEvent.Inv := by
  obtain ⟨hcsn, hce⟩ := s.resetEvent_lines
  obtain ⟨-, -, hb, hw⟩ := h
  refine ⟨State.latchesAgree_of_idle rfl hcsn (fun _ => rfl) (fun _ => rfl), ⟨rfl, hce⟩,
    hb.append s.resetEvent_trace rfl rfl ?_ hcsn hce, State.resetEvent_target_wf hw⟩
  cases s.csn <;> cases s.ce <;> rfl

/-- Taking an input leaves everything the invariant speaks of. -/
theorem State.Inv.of_inputs (h : s.Inv) (rest : List Input) : ({ s with inputs := rest } : State).Inv := h

/-- Every step keeps the invariant. -/
theorem State.Inv.step (h : s.Inv) (hstep : step s = .next t) : t.Inv := by
  rcases step_cases hstep with ⟨rest, -, rfl⟩ | ⟨rest, -, hsmall⟩ | hsmall | ⟨-, i, rest, -, hexec⟩ |
    ⟨-, i, rest, -, hstart⟩ | ⟨hidle, us, rest, -, rfl⟩
  · exact (h.of_inputs rest).resetEvent
  · exact (h.of_inputs rest).smallStep hsmall
  · exact h.smallStep hsmall
  · exact (h.of_inputs rest).exec hexec
  · exact (h.of_inputs rest).startInstr hstart
  · obtain ⟨hp, ha⟩ := State.idle_of_not_busy hidle
    exact (h.of_inputs rest).of_delay (a := s.activity) hp us (h.of_inputs rest).2.1

/-- Settles O3: a reset, a small step, or a request or delay that an idle block takes, keeps each part of the
invariant. -/
theorem everyStepKeepsTheInvariants : Obligations.EveryStepKeepsTheInvariants :=
  fun _ _ h hstep => h.step hstep

end Sys2Proof.Machine
end

/-! ## Runs from reset (10_state.md R34) -/

section
namespace Sys2Proof.Machine

variable {s t : State}

/-- What every step keeps, a run keeps. -/
theorem steps_keep {p : State → Prop} (hstep : ∀ s t, p s → step s = .next t → p t) {k : Nat} (hs : p s)
    (h : steps k s = .next t) : p t := by
  induction k generalizing s with
  | zero =>
    cases h
    exact hs
  | succ k ih =>
    cases hs1 : step s with
    | next s1 =>
      rw [steps_succ_of hs1] at h
      exact ih (hstep s s1 hs hs1) h
    | fault f => simp [steps, hs1] at h
    | refused r => simp [steps, hs1] at h

/-- Inside a frame a step that takes no reset is a small step. -/
theorem smallStep_of_step_inFrame (hp : s.phase ≠ .idle) (hreset : s.inputs.head? ≠ some .reset)
    (hstep : step s = .next t) : ∃ rest, ({ s with inputs := rest } : State).smallStep = .next t := by
  have hbusy : s.busy ≠ false := fun hb => hp (State.idle_of_not_busy hb).1
  rcases step_cases hstep with ⟨rest, hin, -⟩ | ⟨rest, -, hsmall⟩ | hsmall | ⟨hb, -⟩ | ⟨hb, -⟩ | ⟨hb, -⟩
  · exact absurd (by rw [hin]; rfl) hreset
  · exact ⟨rest, hsmall⟩
  · exact ⟨s.inputs, hsmall⟩
  · exact absurd hb hbusy
  · exact absurd hb hbusy
  · exact absurd hb hbusy

/-- S2, S3 and S4 leave chip-enable as it is (R34 e). -/
theorem State.smallStep_ce (hp : s.phase ≠ .idle) (h : s.smallStep = .next t) : t.ce = s.ce := by
  rcases State.smallStep_cases h with ⟨-, rfl⟩ | ⟨-, -, rfl⟩ | ⟨-, ret, -, rfl⟩ | ⟨-, -, rfl⟩ | ⟨-, e, -, rfl⟩ |
    ⟨hidle, -⟩ | ⟨hidle, -⟩ | ⟨hidle, -⟩ | ⟨hidle, -⟩ | ⟨hidle, -⟩ | ⟨hidle, -⟩ | ⟨hidle, -⟩
  · rfl
  · rfl
  · rfl
  · rfl
  · rfl
  all_goals exact absurd hidle hp

/-- Settles O4: (a) to (d) are parts of the invariant, which a run from reset keeps, and (e) is a small step's. -/
theorem reachableStatesObeyTheLatchRelations : Obligations.ReachableStatesObeyTheLatchRelations := by
  intro P inputs target k s hw hrun
  have hinv : s.Inv := steps_keep (fun _ _ => State.Inv.step) (State.inv_atReset P inputs hw) hrun
  obtain ⟨⟨hcsn, hbound, hfc, hfr, -⟩, -⟩ := hinv
  refine ⟨hcsn, hbound, hfc, hfr, fun t hp hreset hstep => ?_⟩
  obtain ⟨rest, hsmall⟩ := smallStep_of_step_inFrame hp hreset hstep
  exact State.smallStep_ce (s := { s with inputs := rest }) hp hsmall

end Sys2Proof.Machine
end

/-! ## The latches of an idle block (10_state.md R20, R33) -/

section
namespace Sys2Proof.Machine

variable {s : State}

/-- An idle block carries out TXPULSE. -/
theorem State.execPlan_pulse (hs : s.Idle) : s.execPlan (.ok .pulse) = .next s.runPulse := by
  simp [State.execPlan, State.busy, hs.1, hs.2]

/-- An idle block carries out TXDRAIN up to its first exit test. -/
theorem State.execPlan_drain (hs : s.Idle) : s.execPlan (.ok .drain) = .next s.runDrain := by
  simp [State.execPlan, State.busy, hs.1, hs.2]

/-- `s` with other values in the seven latches that "have no meaning while the block is idle". -/
def State.withLatches (s : State) (k : FrameKind) (c : Byte) (n j : Nat) (w r : List Byte) (st : Byte) : State :=
  { s with opk := k, cmd := c, len := n, idx := j, wbuf := w, rbuf := r, stat := st }

section
variable (k : FrameKind) (c : Byte) (n j : Nat) (w r : List Byte) (st : Byte)

/-- S1 and S2 write every latch before a frame reads it (40_register_access.md R111, R112). -/
theorem State.commandExchange_accept_withLatches (q : FrameReq) :
    ((s.withLatches k c n j w r st).accept q).commandExchange = (s.accept q).commandExchange := rfl

/-- A whole frame is the same whatever the latches held. -/
theorem State.frame_withLatches (q : FrameReq) : (s.withLatches k c n j w r st).frame q = s.frame q := by
  rw [State.frame, State.commandExchange_accept_withLatches, State.frame]

/-- So is an operation of one frame. -/
theorem State.runFrame_withLatches (q : FrameReq) (ret : Return) :
    (s.withLatches k c n j w r st).runFrame q ret = s.runFrame q ret := by
  rw [State.runFrame, State.frame_withLatches, State.runFrame]

/-- TXPULSE neither reads nor writes a latch. -/
theorem State.runPulse_withLatches :
    (s.withLatches k c n j w r st).runPulse = s.runPulse.withLatches k c n j w r st := rfl

/-- TXDRAIN's start neither reads nor writes a latch. -/
theorem State.raiseDrain_withLatches :
    (s.withLatches k c n j w r st).raiseDrain = s.raiseDrain.withLatches k c n j w r st := rfl

/-- The first read of a poll is the same whatever the latches held. -/
theorem State.pollFifo_withLatches : (s.withLatches k c n j w r st).pollFifo = s.pollFifo :=
  State.frame_withLatches k c n j w r st (readOne s.params s.params.regFifoStatus)

/-- So is the whole poll. -/
theorem State.poll_withLatches : (s.withLatches k c n j w r st).poll = s.poll := by
  rw [State.poll, State.pollFifo_withLatches]
  rfl

/-- So is TXDRAIN up to its first exit test. -/
theorem State.runDrain_withLatches : (s.withLatches k c n j w r st).runDrain = s.runDrain := by
  simp only [State.runDrain, State.raiseDrain_withLatches, State.poll_withLatches, State.pollEmpty, State.pollMaxRt,
    State.pollFifo_withLatches]
  rfl

/-- An idle block answers a plan the same whatever the latches held, but that TXPULSE leaves them as they were. -/
theorem State.execPlan_withLatches (hs : s.Idle) (p : Except Refusal Plan) :
    (s.withLatches k c n j w r st).execPlan p = s.execPlan p ∨
      (s.execPlan p = .next s.runPulse ∧
        (s.withLatches k c n j w r st).execPlan p = .next (s.runPulse.withLatches k c n j w r st)) := by
  have hs' : (s.withLatches k c n j w r st).Idle := hs
  rcases p with e | (⟨q, ret⟩ | _ | _)
  case error =>
    rw [State.execPlan_error _ hs, State.execPlan_error _ hs']
    exact .inl rfl
  case ok.frame =>
    rw [State.execPlan_frame _ hs, State.execPlan_frame _ hs', State.runFrame_withLatches]
    exact .inl rfl
  case ok.pulse =>
    rw [State.execPlan_pulse hs, State.execPlan_pulse hs', State.runPulse_withLatches]
    exact .inr ⟨rfl, rfl⟩
  case ok.drain =>
    rw [State.execPlan_drain hs, State.execPlan_drain hs', State.runDrain_withLatches]
    exact .inl rfl

end

/-- Settles O7: the latches do not change the plan, and what carries it out leaves at most the latches different. -/
theorem idleLatchesAreDead : Obligations.IdleLatchesAreDead := by
  intro s i k c st n j w r hs s'
  have hexec : exec i s' = (s.withLatches k c n j w r st).execPlan (planOf s.params i) := exec_eq_execPlan i s'
  rw [hexec, exec_eq_execPlan]
  obtain hsame | ⟨hpulse, hpulse'⟩ := State.execPlan_withLatches k c n j w r st hs (planOf s.params i)
  · rw [hsame]
    exact ⟨fun t h => ⟨t, h, rfl, rfl, rfl, rfl, rfl, rfl, rfl, rfl⟩, fun e h => h⟩
  · rw [hpulse, hpulse']
    refine ⟨fun t h => ?_, fun e h => by cases h⟩
    cases h
    exact ⟨_, rfl, rfl, rfl, rfl, rfl, rfl, rfl, rfl, rfl⟩

end Sys2Proof.Machine
end

/-! Proofs of the statements of 20_memory.md: what an idle block's next step runs, and what the pair of block and reference
target does (R71), from a rule for each kind of command to the operations. -/

/-! ## The next request (20_memory.md R64, 30_encoding.md R93) -/

section
namespace Sys2Proof.Machine

/-- An idle block is not busy. -/
theorem State.Idle.busy_eq_false {s : State} (hs : s.Idle) : s.busy = false := by
  simp [State.busy, hs.1, hs.2]

/-- An idle block runs the call that comes next. -/
theorem step_of_call {s : State} (hs : s.Idle) {i : Instr} {rest : List Input} (h : s.inputs = .call i :: rest) :
    step s = exec i { s with inputs := rest } := by
  simp [step, h, hs.busy_eq_false]

/-- An idle block accepts the call in small steps that comes next. -/
theorem step_of_start {s : State} (hs : s.Idle) {i : Instr} {rest : List Input} (h : s.inputs = .start i :: rest) :
    step s = ({ s with inputs := rest } : State).startInstr i := by
  simp [step, h, hs.busy_eq_false]

/-- A word the decoder reads is presented to the idle block as a call (log entry 15). -/
theorem State.withFetchWord_of_decode (s : State) {nbits w : Nat} {i : Instr} (h : decodeTableWord nbits w = some i) :
    s.withFetchWord nbits w =
      { s with csn := .high, ce := .low, phase := .idle, activity := .idle, inputs := .call i :: s.inputs } := by
  simp [State.withFetchWord, h]

/-- Settles O8: a call and a call in small steps are cases of the step, and a decoded word is presented as a call. -/
theorem stepRunsTheNextRequest : Obligations.StepRunsTheNextRequest := by
  refine ⟨fun s i rest hs h => step_of_call hs h, fun s i rest hs h => step_of_start hs h, fun s nbits w i h => ?_⟩
  rw [s.withFetchWord_of_decode h]
  exact step_of_call ⟨rfl, rfl⟩ rfl

end Sys2Proof.Machine
end

/-! ## The register map under a run of stored bytes (20_memory.md R71) -/

section
namespace Sys2Proof.Machine

/-- The bytes `w` stored as the bytes `i`, `i + 1`, ... of the register at `addr`. -/
def Memory.writeBytes (m : Memory) (addr : Byte) : Nat → List Byte → Memory
  | _, [] => m
  | i, b :: w => Memory.writeBytes (m.write (regKey addr i) b) addr (i + 1) w

/-- Where no byte was stored the map reads as before. -/
theorem Memory.read_writeBytes_other {addr : Byte} {key : Nat} (w : List Byte) (m : Memory) (i : Nat)
    (h : ∀ j, j < w.length → key ≠ regKey addr (i + j)) : (m.writeBytes addr i w).read key = m.read key := by
  induction w generalizing m i with
  | nil => rfl
  | cons b w ih =>
    have hfirst : regKey addr i ≠ key := Ne.symm (h 0 (by simp))
    rw [Memory.writeBytes, ih _ _ fun j hj => ?_, Memory.read_write_other _ _ hfirst]
    rw [Nat.add_assoc, Nat.add_comm 1 j]
    exact h (j + 1) (by simpa using hj)

/-- Each stored byte reads back. -/
theorem Memory.read_writeBytes {addr : Byte} (w : List Byte) (m : Memory) (i : Nat) {j : Nat} (hj : j < w.length) :
    (m.writeBytes addr i w).read (regKey addr (i + j)) = w[j]? := by
  induction w generalizing m i j with
  | nil => simp at hj
  | cons b w ih =>
    rw [Memory.writeBytes]
    cases j with
    | zero =>
      rw [Memory.read_writeBytes_other _ _ _ fun j _ => ?_]
      · exact Memory.read_write_self ..
      · simp only [ne_eq, regKey_inj]
        omega
    | succ j =>
      rw [← Nat.add_assoc, Nat.add_right_comm, ih _ _ (by simpa using hj), List.getElem?_cons_succ]

/-- So it does where the bytes were stored from the register's first. -/
theorem Memory.read_writeBytes_zero {addr : Byte} (w : List Byte) (m : Memory) {j : Nat} (hj : j < w.length) :
    (m.writeBytes addr 0 w).read (regKey addr j) = w[j]? := by
  simpa only [Nat.zero_add] using Memory.read_writeBytes w m 0 hj

end Sys2Proof.Machine
end

/-! ## Which command the reference target sees (30_encoding.md R85, table E2) -/

section
namespace Sys2Proof.Machine

variable {P : Params}

/-- The premises of `blockLegal`, by name. -/
theorem blockLegal_iff : blockLegal P = true ↔ LenMaxLegal P ∧
    P.cmdRRegister &&& P.regAddrMask = 0 ∧ P.cmdWRegister &&& P.regAddrMask = 0 ∧
    AddrLegal P P.regStatus ∧ AddrLegal P P.regFifoStatus ∧ BitLegal P.bitTxEmpty ∧ IrqMaskLegal P := by
  rw [blockLegal, decide_eq_true_iff]

/-- The command bytes that are no register's. -/
def fixedCommands (P : Params) : List Byte :=
  [P.cmdRRxPayload, P.cmdWTxPayload, P.cmdWTxPayloadNoack, P.cmdFlushTx, P.cmdFlushRx]

/-- What `commandsDistinct` asks, in terms of the list of fixed command bytes. -/
theorem commandsDistinct_iff : commandsDistinct P = true ↔ P.cmdRRegister ≠ P.cmdWRegister ∧ (fixedCommands P).Nodup ∧
    ∀ c ∈ fixedCommands P, ¬IsCmdRead P c ∧ ¬IsCmdWrite P c := by
  rw [commandsDistinct, decide_eq_true_iff, fixedCommands]

/-- LDTX has a command for either choice of acknowledgement (30_encoding.md R90). -/
theorem cmdLoadPayload_eq (P : Params) :
    cmdLoadPayload P = P.cmdWTxPayload ∨ cmdLoadPayload P = P.cmdWTxPayloadNoack := by
  unfold cmdLoadPayload
  split
  · exact .inl rfl
  · exact .inr rfl

/-- LDTX's command byte is not RDRX's, FLTX's is that of neither, and FLRX's is that of none of these. -/
theorem fixedCommands_told_apart (hd : commandsDistinct P = true) :
    cmdLoadPayload P ≠ P.cmdRRxPayload ∧
    (P.cmdFlushTx ≠ P.cmdRRxPayload ∧ ¬(P.cmdFlushTx = P.cmdWTxPayload ∨ P.cmdFlushTx = P.cmdWTxPayloadNoack)) ∧
    P.cmdFlushRx ≠ P.cmdRRxPayload ∧ ¬(P.cmdFlushRx = P.cmdWTxPayload ∨ P.cmdFlushRx = P.cmdWTxPayloadNoack) ∧
      P.cmdFlushRx ≠ P.cmdFlushTx := by
  obtain ⟨-, hnodup, -⟩ := commandsDistinct_iff.1 hd
  simp only [fixedCommands, List.nodup_cons, List.mem_cons, List.not_mem_nil, or_false, not_or] at hnodup
  rcases cmdLoadPayload_eq P with hload | hload <;> rw [hload] <;> tauto

section
variable (hb : blockLegal P = true)
include hb

/-- A frame is admitted that is no longer than `PAYLOAD_LEN` or than five bytes. -/
theorem lengthLegal_of_le {n : Nat} (h : n ≤ max 5 P.payloadLen) : LengthLegal P n := by
  obtain ⟨hlen, -⟩ := blockLegal_iff.1 hb
  exact ⟨hlen, h.trans hlen⟩

theorem addrLegal_regStatus : AddrLegal P P.regStatus := by
  obtain ⟨-, -, -, hstatus, -⟩ := blockLegal_iff.1 hb
  exact hstatus

theorem addrLegal_regFifoStatus : AddrLegal P P.regFifoStatus := by
  obtain ⟨-, -, -, -, hfifo, -⟩ := blockLegal_iff.1 hb
  exact hfifo

theorem irqMaskLegal : IrqMaskLegal P := by
  obtain ⟨-, -, -, -, -, -, hmask⟩ := blockLegal_iff.1 hb
  exact hmask

/-- The target reads the address back from a register read's command byte (30_encoding.md R85). -/
theorem isCmdRead_cmdRead {addr : Byte} (ha : AddrLegal P addr) :
    IsCmdRead P (cmdRead P addr) ∧ addrField P (cmdRead P addr) = addr := by
  obtain ⟨-, hread, -⟩ := blockLegal_iff.1 hb
  obtain ⟨hclass, hfield⟩ := (isCmdRead_iff hread _ addr).2 ⟨ha, rfl⟩
  exact ⟨hclass, hfield.symm⟩

/-- The same for a register write's command byte. -/
theorem isCmdWrite_cmdWrite {addr : Byte} (ha : AddrLegal P addr) :
    IsCmdWrite P (cmdWrite P addr) ∧ addrField P (cmdWrite P addr) = addr := by
  obtain ⟨-, -, hwrite, -⟩ := blockLegal_iff.1 hb
  obtain ⟨hclass, hfield⟩ := (isCmdWrite_iff hwrite _ addr).2 ⟨ha, rfl⟩
  exact ⟨hclass, hfield.symm⟩

end

/-- No byte is a command of both register classes. -/
theorem not_isCmdRead_of_isCmdWrite (hd : commandsDistinct P = true) {c : Byte} (hw : IsCmdWrite P c) :
    ¬IsCmdRead P c := by
  obtain ⟨hne, -⟩ := commandsDistinct_iff.1 hd
  exact fun hr => hne (hr.symm.trans hw)

end Sys2Proof.Machine
end

/-! ## What each kind of frame does to the reference target (20_memory.md R71) -/

section
namespace Sys2Proof.Machine

variable {P : Params} (r : RefTarget)

/-- The reference target after the whole frame of command byte `c` that sent the data bytes `outs`
(`State.frame_reference`). -/
def RefTarget.afterFrame (P : Params) (r : RefTarget) (c : Byte) (outs : List Byte) : RefTarget :=
  { (r.afterData P c 0 outs).endFrame P c outs with bracket := .outside }

/-- Only a register write stores data bytes as they come. -/
theorem RefTarget.afterData_of_not_write {c : Byte} (h : IsCmdRead P c ∨ ¬IsCmdWrite P c) (i : Nat) (outs : List Byte) :
    r.afterData P c i outs = r := by
  have hstep : ∀ i out, (r.dataByte P c i out).2 = r := by
    intro i out
    unfold RefTarget.dataByte
    split_ifs with hr hw
    · rfl
    · exact absurd hw (h.resolve_left hr)
    · rfl
    · rfl
  induction outs generalizing i with
  | nil => rfl
  | cons out outs ih => rw [RefTarget.afterData, hstep, ih]

/-- A register read changes nothing. -/
theorem RefTarget.afterFrame_of_read {c : Byte} (h : IsCmdRead P c) (outs : List Byte) :
    r.afterFrame P c outs = { r with bracket := .outside } := by
  rw [RefTarget.afterFrame, r.afterData_of_not_write (.inl h), RefTarget.endFrame, if_pos h]

/-- A register write does what its data bytes do. -/
theorem RefTarget.afterFrame_of_write (hd : commandsDistinct P = true) {c : Byte} (h : IsCmdWrite P c) (outs : List Byte) :
    r.afterFrame P c outs = { r.afterData P c 0 outs with bracket := .outside } := by
  rw [RefTarget.afterFrame, RefTarget.endFrame, if_neg (not_isCmdRead_of_isCmdWrite hd h), if_pos h]

/-- One data byte of a register write. -/
theorem RefTarget.dataByte_of_write (hd : commandsDistinct P = true) {c : Byte} (h : IsCmdWrite P c) (i : Nat)
    (out : Byte) : r.dataByte P c i out = (none, r.writeByte P (addrField P c) i out) := by
  rw [RefTarget.dataByte, if_neg (not_isCmdRead_of_isCmdWrite hd h), if_pos h]

/-- The data bytes written to a register that is not the status register are stored in it. -/
theorem RefTarget.afterData_of_write (hd : commandsDistinct P = true) {c : Byte} (h : IsCmdWrite P c)
    (hne : addrField P c ≠ P.regStatus) (i : Nat) (w : List Byte) :
    r.afterData P c i w = { r with reg := r.reg.writeBytes (addrField P c) i w } := by
  induction w generalizing r i with
  | nil => rfl
  | cons b w ih =>
    rw [RefTarget.afterData, RefTarget.dataByte_of_write r hd h, RefTarget.writeByte, if_neg hne, ih]
    rfl

/-- The bits where some byte of the list has a 1, taken apart at its head. -/
theorem foldl_or_cons (b : Byte) (w : List Byte) : (b :: w).foldl (· ||| ·) 0 = b ||| w.foldl (· ||| ·) 0 := by
  rw [List.foldl_cons, BitVec.or_comm 0 b, List.foldl_assoc]

/-- Clearing the bits of two bytes one after the other clears the bits of both. -/
theorem clear_clear (fl a b mask : Byte) :
    fl &&& ~~~(a &&& mask) &&& ~~~(b &&& mask) = fl &&& ~~~((a ||| b) &&& mask) := by
  ext i hi
  simp
  cases fl[i] <;> cases a[i] <;> cases b[i] <;> cases mask[i] <;> rfl

/-- The data bytes written to the status register clear the latched bits where one of them has a 1. -/
theorem RefTarget.afterData_of_write_regStatus (hd : commandsDistinct P = true) {c : Byte} (h : IsCmdWrite P c)
    (heq : addrField P c = P.regStatus) (i : Nat) (w : List Byte) :
    r.afterData P c i w = { r with fl := r.fl &&& ~~~(w.foldl (· ||| ·) 0 &&& latchedBits P) } := by
  induction w generalizing r i with
  | nil =>
    have hnone : r.fl &&& ~~~((0 : Byte) &&& latchedBits P) = r.fl := by
      rw [show (0 : Byte) = 0#8 from rfl, BitVec.zero_and, BitVec.not_zero, BitVec.and_allOnes]
    rw [List.foldl_nil, hnone]
    rfl
  | cons b w ih =>
    rw [RefTarget.afterData, RefTarget.dataByte_of_write r hd h, RefTarget.writeByte, if_pos heq, ih, clear_clear,
      foldl_or_cons]

/-- A frame of a fixed command acts at its end only. -/
theorem RefTarget.afterFrame_of_fixed (hd : commandsDistinct P = true) {c : Byte} (h : c ∈ fixedCommands P)
    (outs : List Byte) : r.afterFrame P c outs = { r.endFrame P c outs with bracket := .outside } := by
  obtain ⟨-, -, hfixed⟩ := commandsDistinct_iff.1 hd
  rw [RefTarget.afterFrame, r.afterData_of_not_write (.inr (hfixed c h).2)]

/-- What the end of a fixed command's frame does, once it is known to be no register's. -/
theorem RefTarget.endFrame_of_fixed (hd : commandsDistinct P = true) {c : Byte} (h : c ∈ fixedCommands P)
    (got : List Byte) : r.endFrame P c got =
      if c = P.cmdRRxPayload then { r with rx := r.rx.tail }
      else if c = P.cmdWTxPayload ∨ c = P.cmdWTxPayloadNoack then { r with tx := r.tx ++ [got] }
      else if c = P.cmdFlushTx then { r with tx := [] }
      else if c = P.cmdFlushRx then { r with rx := [] }
      else r := by
  obtain ⟨-, -, hfixed⟩ := commandsDistinct_iff.1 hd
  rw [RefTarget.endFrame, if_neg (hfixed c h).1, if_neg (hfixed c h).2]

/-- A payload read removes the head of the RX queue. -/
theorem RefTarget.afterFrame_cmdRRxPayload (hd : commandsDistinct P = true) (outs : List Byte) :
    r.afterFrame P P.cmdRRxPayload outs = { r with rx := r.rx.tail, bracket := .outside } := by
  have hc : P.cmdRRxPayload ∈ fixedCommands P := by simp [fixedCommands]
  rw [r.afterFrame_of_fixed hd hc, r.endFrame_of_fixed hd hc, if_pos rfl]

/-- A payload write appends its data bytes as one payload, with acknowledgement required or not. -/
theorem RefTarget.afterFrame_cmdLoadPayload (hd : commandsDistinct P = true) (outs : List Byte) :
    r.afterFrame P (cmdLoadPayload P) outs = { r with tx := r.tx ++ [outs], bracket := .outside } := by
  have hc : cmdLoadPayload P ∈ fixedCommands P := by
    rcases cmdLoadPayload_eq P with hload | hload <;> simp [hload, fixedCommands]
  obtain ⟨hread, -⟩ := fixedCommands_told_apart hd
  rw [r.afterFrame_of_fixed hd hc, r.endFrame_of_fixed hd hc, if_neg hread, if_pos (cmdLoadPayload_eq P)]

/-- A flush of the TX queue empties it. -/
theorem RefTarget.afterFrame_cmdFlushTx (hd : commandsDistinct P = true) (outs : List Byte) :
    r.afterFrame P P.cmdFlushTx outs = { r with tx := [], bracket := .outside } := by
  have hc : P.cmdFlushTx ∈ fixedCommands P := by simp [fixedCommands]
  obtain ⟨-, ⟨hread, hload⟩, -⟩ := fixedCommands_told_apart hd
  rw [r.afterFrame_of_fixed hd hc, r.endFrame_of_fixed hd hc, if_neg hread, if_neg hload, if_pos rfl]

/-- A flush of the RX queue empties it. -/
theorem RefTarget.afterFrame_cmdFlushRx (hd : commandsDistinct P = true) (outs : List Byte) :
    r.afterFrame P P.cmdFlushRx outs = { r with rx := [], bracket := .outside } := by
  have hc : P.cmdFlushRx ∈ fixedCommands P := by simp [fixedCommands]
  obtain ⟨-, -, hread, hload, hflush⟩ := fixedCommands_told_apart hd
  rw [r.afterFrame_of_fixed hd hc, r.endFrame_of_fixed hd hc, if_neg hread, if_neg hload, if_neg hflush, if_pos rfl]

end Sys2Proof.Machine
end

/-! ## One operation of an idle block with the reference target (20_memory.md R71) -/

section
namespace Sys2Proof.Machine

/-- The block is idle under the configuration `P`, and the reference target `r` is at the far end of the transport. -/
structure State.Facing (s : State) (P : Params) (r : RefTarget) : Prop where
  idle : s.Idle
  params : s.params = P
  target : s.target = .reference r

variable {P : Params} {s : State} {r : RefTarget}

/-- An operation of one frame completes, returns one result, and leaves the target as its frame does. -/
theorem State.Facing.exec_frame (h : s.Facing P r) {i : Instr} {q : FrameReq} {ret : Return}
    (hp : planOf P i = .ok (.frame q ret)) :
    exec i s = .next (s.runFrame q ret) ∧
      (s.runFrame q ret).Facing P (r.afterFrame P q.command (sentData P q)) := by
  obtain ⟨hs, rfl, ht⟩ := h
  obtain ⟨hq, -⟩ := planOf_frame hp
  obtain ⟨-, htarget⟩ := s.frame_reference q hq r ht
  refine ⟨?_, ⟨rfl, rfl⟩, s.frame_params hq, htarget⟩
  rw [exec_eq_execPlan, hp, s.execPlan_frame hs]

/-- So it completes and leaves the target `r'`, where its frame makes that of `r`. -/
theorem State.Facing.exec_frame_of_eq (h : s.Facing P r) {i : Instr} {q : FrameReq} {ret : Return} {r' : RefTarget}
    (hp : planOf P i = .ok (.frame q ret)) (hr : r.afterFrame P q.command (sentData P q) = r') :
    ∃ t, exec i s = .next t ∧ t.Facing P r' := by
  obtain ⟨hexec, hfacing⟩ := h.exec_frame hp
  exact ⟨_, hexec, hr ▸ hfacing⟩

/-- An operation of one read frame that the target answers with `bytes` returns its status byte and these. -/
theorem State.Facing.exec_readFrame (h : s.Facing P r) {i : Instr} {c : Byte} {ret : Return} {bytes : List Byte}
    (hp : planOf P i = .ok (.frame ⟨.fr, c, [], bytes.length⟩ ret))
    (hanswers : ∀ j, j < bytes.length → r.dataByte P c j P.fill = (bytes[j]?, r)) :
    ∃ t, exec i s = .next t ∧ t.Facing P (r.afterFrame P c (fillBytes P bytes.length)) ∧
      t.results = s.results ++ [ret.value (r.status P) bytes] := by
  obtain ⟨hexec, hfacing⟩ := h.exec_frame hp
  obtain ⟨-, rfl, ht⟩ := h
  obtain ⟨hq, -⟩ := planOf_frame hp
  refine ⟨_, hexec, hfacing, ?_⟩
  obtain ⟨hstat, -⟩ := s.frame_reference _ hq r ht
  have hresults : (s.frame ⟨.fr, c, [], bytes.length⟩).results = s.results := by
    obtain ⟨st, ins, tgt, dr, -, hframe⟩ := s.frame_spec _ hq
    rw [hframe]
    rfl
  rw [State.runFrame, State.finish_results, hstat, s.frame_answers c _ r ht bytes rfl hanswers, hresults]

/-- What a data exchange of a payload read answers. -/
theorem RefTarget.dataByte_cmdRRxPayload (hd : commandsDistinct P = true) (i : Nat) (out : Byte) :
    r.dataByte P P.cmdRRxPayload i out = (r.payloadByte i, r) := by
  obtain ⟨-, -, hfixed⟩ := commandsDistinct_iff.1 hd
  obtain ⟨hread, hwrite⟩ := hfixed P.cmdRRxPayload (by simp [fixedCommands])
  rw [RefTarget.dataByte, if_neg hread, if_neg hwrite, if_pos rfl]

section
variable (hb : blockLegal P = true)
include hb

/-- What a data exchange of a register read answers. -/
theorem RefTarget.dataByte_cmdRead {addr : Byte} (ha : AddrLegal P addr) (i : Nat) (out : Byte) :
    r.dataByte P (cmdRead P addr) i out = (r.readByte P addr i, r) := by
  obtain ⟨hclass, hfield⟩ := isCmdRead_cmdRead hb ha
  rw [RefTarget.dataByte, if_pos hclass, hfield]

variable (hd : commandsDistinct P = true)
include hd

/-- An operation that writes `w` to a register the target stores leaves it with these bytes stored. -/
theorem State.Facing.exec_write (h : s.Facing P r) {i : Instr} {addr : Byte} {w : List Byte} {ret : Return}
    (hp : planOf P i = .ok (.frame ⟨.fw, cmdWrite P addr, w, w.length⟩ ret)) (ha : AddrLegal P addr)
    (hne : addr ≠ P.regStatus) :
    ∃ t, exec i s = .next t ∧ t.Facing P { r with reg := r.reg.writeBytes addr 0 w, bracket := .outside } := by
  obtain ⟨hclass, hfield⟩ := isCmdWrite_cmdWrite hb ha
  refine h.exec_frame_of_eq hp ?_
  rw [r.afterFrame_of_write hd hclass, r.afterData_of_write hd hclass (by rwa [hfield]), hfield]
  rfl

/-- An operation that writes `w` to the status register clears the latched bits where a byte of `w` has a 1. -/
theorem State.Facing.exec_write_regStatus (h : s.Facing P r) {i : Instr} {w : List Byte} {ret : Return}
    (hp : planOf P i = .ok (.frame ⟨.fw, cmdWrite P P.regStatus, w, w.length⟩ ret)) :
    ∃ t, exec i s = .next t ∧ t.Facing P
      { r with fl := r.fl &&& ~~~(w.foldl (· ||| ·) 0 &&& latchedBits P), bracket := .outside } := by
  obtain ⟨hclass, hfield⟩ := isCmdWrite_cmdWrite hb (addrLegal_regStatus hb)
  refine h.exec_frame_of_eq hp ?_
  rw [r.afterFrame_of_write hd hclass, r.afterData_of_write_regStatus hd hclass hfield]
  rfl

/-- What an operation wrote to a register the target stores, an operation that reads as many bytes of it returns. -/
theorem State.Facing.exec_write_exec_read (h : s.Facing P r) {i i' : Instr} {addr : Byte} {w : List Byte}
    {ret ret' : Return} (hp : planOf P i = .ok (.frame ⟨.fw, cmdWrite P addr, w, w.length⟩ ret))
    (hp' : planOf P i' = .ok (.frame ⟨.fr, cmdRead P addr, [], w.length⟩ ret')) (ha : AddrLegal P addr)
    (hne : addr ≠ P.regStatus) (hne' : addr ≠ P.regFifoStatus) :
    ∃ t u st, exec i s = .next t ∧ exec i' t = .next u ∧ u.results = t.results ++ [ret'.value st w] := by
  obtain ⟨t, hwrite, ht⟩ := h.exec_write hb hd hp ha hne
  obtain ⟨u, hread, -, hu⟩ := ht.exec_readFrame hp' fun j hj => by
    rw [RefTarget.dataByte_cmdRead hb ha, RefTarget.readByte, if_neg hne, if_neg hne', Memory.read_writeBytes_zero w _ hj]
  exact ⟨t, u, _, hwrite, hread, hu⟩

end

end Sys2Proof.Machine
end

/-! ## The register map (20_memory.md R65, R71) -/

section
namespace Sys2Proof.Machine

section
variable {P : Params} {addr : Byte} (ha : AddrLegal P addr)
include ha

theorem planOf_rdreg (h : LengthLegal P 1) :
    planOf P (.rdreg addr) = .ok (.frame ⟨.fr, cmdRead P addr, [], 1⟩ .dataByte) :=
  registerPlan_ok_iff.2 ⟨ha, h, rfl⟩

theorem planOf_rdbuf {n : Nat} (h : LengthLegal P n) :
    planOf P (.rdbuf addr n) = .ok (.frame ⟨.fr, cmdRead P addr, [], n⟩ .dataBytes) :=
  registerPlan_ok_iff.2 ⟨ha, h, rfl⟩

theorem planOf_wrreg (h : LengthLegal P 1) (b : Byte) :
    planOf P (.wrreg addr b) = .ok (.frame ⟨.fw, cmdWrite P addr, [b], 1⟩ .status) :=
  registerPlan_ok_iff.2 ⟨ha, h, rfl⟩

theorem planOf_wrbuf {w : List Byte} (h : LengthLegal P w.length) :
    planOf P (.wrbuf addr w) = .ok (.frame ⟨.fw, cmdWrite P addr, w, w.length⟩ .status) :=
  registerPlan_ok_iff.2 ⟨ha, h, rfl⟩

end

/-- Settles O39: WRREG and RDREG write and read a register of one byte. -/
theorem writtenRegisterReadsBack : Obligations.WrittenRegisterReadsBack := by
  intro s r addr b hs ht hb hd ha hne hne'
  have h : s.Facing s.params r := ⟨hs, rfl, ht⟩
  have hone : LengthLegal s.params 1 := lengthLegal_of_le hb (by omega)
  obtain ⟨t, u, _, hwrite, hread, hu⟩ :=
    h.exec_write_exec_read hb hd (planOf_wrreg ha hone b) (planOf_rdreg ha hone) ha hne hne'
  exact ⟨t, u, hwrite, hread, hu⟩

/-- Settles O40: WRBUF and RDBUF write and read the bytes of a register. -/
theorem writtenBufferReadsBack : Obligations.WrittenBufferReadsBack := by
  intro s r addr w hs ht hb hd ha hne hne' hlen
  have h : s.Facing s.params r := ⟨hs, rfl, ht⟩
  obtain ⟨t, u, _, hwrite, hread, hu⟩ :=
    h.exec_write_exec_read hb hd (planOf_wrbuf ha hlen) (planOf_rdbuf ha hlen) ha hne hne'
  exact ⟨t, u, hwrite, hread, hu⟩

/-- Settles O41: the bytes stored are the only change of the map, and the map is the only change of the target. -/
theorem registerWriteStoresOnlyItsBytes : Obligations.RegisterWriteStoresOnlyItsBytes := by
  intro s r addr hs ht hb hd ha hne
  have h : s.Facing s.params r := ⟨hs, rfl, ht⟩
  refine ⟨fun w hlen => ?_, fun b => ?_⟩
  · obtain ⟨t, hexec, hfacing⟩ := h.exec_write hb hd (planOf_wrbuf ha hlen) ha hne
    exact ⟨t, _, hexec, hfacing.target, rfl, rfl, rfl, fun i hi => Memory.read_writeBytes_zero w r.reg hi,
      fun key hkey => Memory.read_writeBytes_other w r.reg 0 (by simpa only [Nat.zero_add] using hkey)⟩
  · have hone : LengthLegal s.params 1 := lengthLegal_of_le hb (by omega)
    obtain ⟨t, hexec, hfacing⟩ := h.exec_write hb hd (planOf_wrreg ha hone b) ha hne
    exact ⟨t, _, hexec, hfacing.target, rfl, rfl, rfl, Memory.read_write_self .., fun key hkey =>
      Memory.read_write_other _ _ hkey.symm⟩

end Sys2Proof.Machine
end

/-! ## Reading (20_memory.md R60) -/

section
namespace Sys2Proof.Machine

/-- The frame of a register read leaves the reference target outside a bracket, and otherwise as it was. -/
theorem State.frame_cmdRead_target {s : State} {r : RefTarget} (ht : s.target = .reference r) {q : FrameReq}
    (hq : q.shaped) (hread : IsCmdRead s.params q.command) :
    (s.frame q).target = .reference { r with bracket := .outside } := by
  obtain ⟨-, htarget⟩ := s.frame_reference q hq r ht
  exact htarget.trans (congrArg Target.reference (r.afterFrame_of_read hread _))

/-- So does a poll of TXDRAIN, which reads two registers (43_chip_enable_ops.md R163). -/
theorem State.poll_target {s : State} {r : RefTarget} (ht : s.target = .reference r) (hb : blockLegal s.params = true) :
    s.poll.target = .reference { r with bracket := .outside } := by
  have hparams : s.pollFifo.params = s.params := s.frame_params (readOne_shaped _ _)
  have hfifo : s.pollFifo.target = .reference { r with bracket := .outside } :=
    State.frame_cmdRead_target ht (readOne_shaped _ _) (isCmdRead_cmdRead hb (addrLegal_regFifoStatus hb)).1
  rw [← hparams] at hb
  exact State.frame_cmdRead_target hfifo (readOne_shaped _ _) (isCmdRead_cmdRead hb (addrLegal_regStatus hb)).1

/-- TXDRAIN does to the target what its first poll does. -/
theorem State.runDrain_target (s : State) : s.runDrain.target = s.raiseDrain.poll.target := by
  unfold State.runDrain
  split <;> rfl

/-- The operations that read registers plan the frame of a register read. -/
theorem isCmdRead_of_planOf {P : Params} (hb : blockLegal P = true) (hsrc : P.statusSource = .readStatusReg) {i : Instr}
    (hi : (∃ addr, i = .rdreg addr) ∨ (∃ addr n, i = .rdbuf addr n) ∨ i = .rxpipe ∨ i = .txdrain ∨ i = .txpulse)
    {q : FrameReq} {ret : Return} (hp : planOf P i = .ok (.frame q ret)) : IsCmdRead P q.command := by
  rcases hi with ⟨addr, rfl⟩ | ⟨addr, n, rfl⟩ | rfl | rfl | rfl
  case inl | inr.inl =>
    obtain ⟨ha, -, hq⟩ := registerPlan_ok_iff.1 hp
    cases hq
    exact (isCmdRead_cmdRead hb ha).1
  case inr.inr.inl =>
    simp only [planOf, planRxpipe, hsrc] at hp
    obtain ⟨ha, -, hq⟩ := registerPlan_ok_iff.1 hp
    cases hq
    exact (isCmdRead_cmdRead hb ha).1
  case inr.inr.inr.inl =>
    obtain ⟨-, hq⟩ := planTxdrain_ok_iff.1 hp
    cases hq
  case inr.inr.inr.inr => cases hp

/-- Settles O42: register reads leave the target but for its place in the bracket, and TXPULSE makes no frame. -/
theorem readsLeaveTheReferenceTarget : Obligations.ReadsLeaveTheReferenceTarget := by
  intro s t r i hs ht hb hd hsrc hi hexec
  rw [exec_eq_execPlan] at hexec
  obtain ⟨-, ⟨q, ret, hp, rfl⟩ | ⟨-, rfl⟩ | ⟨-, rfl⟩⟩ := State.execPlan_cases hexec
  · exact ⟨_, State.frame_cmdRead_target ht (planOf_frame hp).1 (isCmdRead_of_planOf hb hsrc hi hp), rfl, rfl, rfl, rfl⟩
  · exact ⟨r, ht, rfl, rfl, rfl, rfl⟩
  · exact ⟨_, s.runDrain_target.trans (State.poll_target (s := s.raiseDrain) ht hb), rfl, rfl, rfl, rfl⟩

end Sys2Proof.Machine
end

/-! ## The queues and the latched bits (20_memory.md R71) -/

section
namespace Sys2Proof.Machine

/-- Settles O43: each of the four operations is one frame of a fixed command. -/
theorem fifoOperationsMoveThePayloads : Obligations.FifoOperationsMoveThePayloads := by
  intro s r hs ht hb hd
  have h : s.Facing s.params r := ⟨hs, rfl, ht⟩
  have hzero : LengthLegal s.params 0 := lengthLegal_of_le hb (Nat.zero_le _)
  refine ⟨fun w hpl hw => ?_, fun n hn => ?_, ?_, ?_⟩
  · obtain ⟨t, hexec, hfacing⟩ := h.exec_frame_of_eq (i := .ldtx w)
      (planLdtx_ok_iff.2 ⟨hpl, hw, lengthLegal_of_le hb (le_max_right ..), rfl⟩) (r.afterFrame_cmdLoadPayload hd w)
    exact ⟨t, hexec, hfacing.target⟩
  · obtain ⟨t, hexec, hfacing⟩ := h.exec_frame_of_eq (i := .rdrx n)
      (framePlan_ok_iff.2 ⟨hn, rfl⟩) (r.afterFrame_cmdRRxPayload hd _)
    exact ⟨t, hexec, hfacing.target⟩
  · obtain ⟨t, hexec, hfacing⟩ := h.exec_frame_of_eq (i := .fltx)
      (framePlan_ok_iff.2 ⟨hzero, rfl⟩) (r.afterFrame_cmdFlushTx hd _)
    exact ⟨t, hexec, hfacing.target⟩
  · obtain ⟨t, hexec, hfacing⟩ := h.exec_frame_of_eq (i := .flrx)
      (framePlan_ok_iff.2 ⟨hzero, rfl⟩) (r.afterFrame_cmdFlushRx hd _)
    exact ⟨t, hexec, hfacing.target⟩

/-- Settles O44: CLRIRQ and WRREG write one byte to the status register, WRBUF any number. -/
theorem clrirqClearsTheLatchedBits : Obligations.ClrirqClearsTheLatchedBits := by
  intro s r hs ht hb hd
  have h : s.Facing s.params r := ⟨hs, rfl, ht⟩
  have ha := addrLegal_regStatus hb
  have hone : LengthLegal s.params 1 := lengthLegal_of_le hb (by omega)
  have hbyte (b : Byte) : [b].foldl (· ||| ·) 0 = b := BitVec.zero_or
  refine ⟨?_, fun b => ?_, fun w hw => ?_⟩
  · obtain ⟨-, -, -, hmask⟩ := irqMaskLegal hb
    obtain ⟨t, hexec, hfacing⟩ := h.exec_write_regStatus hb hd (i := .clrirq)
      (planClrirq_ok_iff.2 ⟨irqMaskLegal hb, ha, hone, rfl⟩)
    rw [hbyte, hmask, BitVec.and_self] at hfacing
    exact ⟨t, hexec, hfacing.target⟩
  · obtain ⟨t, hexec, hfacing⟩ := h.exec_write_regStatus hb hd (planOf_wrreg ha hone b)
    rw [hbyte] at hfacing
    exact ⟨t, hexec, hfacing.target⟩
  · obtain ⟨t, hexec, hfacing⟩ := h.exec_write_regStatus hb hd (planOf_wrbuf ha hw)
    exact ⟨t, hexec, hfacing.target⟩

end Sys2Proof.Machine
end

/-! ## The receive sequence (70_reset_and_hazards.md R224, 95_test_vectors.md P3) -/

section
namespace Sys2Proof.Machine

/-- The pipe field of a byte joined from flags outside it and a pipe number is that number (42_status_ops.md R150). -/
theorem rxPipeOf_or (fl : Byte) (p : BitVec 3) (h : fl &&& 0x0E = 0) : rxPipeOf (fl ||| (p.setWidth 8 <<< 1)) = p := by
  ext i hi
  have hclear : fl.getLsbD (i + 1) = false := by
    have hbit := congrArg (·.getLsbD (i + 1)) h
    interval_cases i <;> simpa using hbit
  interval_cases i <;> simp at hclear <;> simp [rxPipeOf, hclear]

variable {P : Params} {s : State} {r : RefTarget}

/-- RXPIPE by register read returns the pipe number at the RX queue's head and changes nothing (42_status_ops.md R151),
where no flag stands in the pipe field. -/
theorem State.Facing.exec_rxpipe (h : s.Facing P r) (hb : blockLegal P = true)
    (hsrc : P.statusSource = .readStatusReg) (hfl : r.fl &&& 0x0E = 0) :
    ∃ t, exec .rxpipe s = .next t ∧ t.Facing P { r with bracket := .outside } ∧
      t.results = s.results ++ [.pipe (r.headPipe P)] := by
  have ha := addrLegal_regStatus hb
  have hplan : planOf P .rxpipe = .ok (.frame ⟨.fr, cmdRead P P.regStatus, [], [r.status P].length⟩ .pipeOfData) := by
    simp only [planOf, planRxpipe, hsrc]
    exact registerPlan_ok_iff.2 ⟨ha, lengthLegal_of_le hb (by simp), rfl⟩
  obtain ⟨t, hexec, hfacing, hresults⟩ := h.exec_readFrame hplan fun j hj => by
    obtain rfl : j = 0 := by simpa using hj
    rw [RefTarget.dataByte_cmdRead hb ha, RefTarget.readByte, if_pos rfl]
    rfl
  rw [r.afterFrame_of_read (isCmdRead_cmdRead hb ha).1] at hfacing
  have hpipe : Return.value .pipeOfData (r.status P) [r.status P] = .pipe (r.headPipe P) :=
    congrArg Result.pipe (rxPipeOf_or r.fl (r.headPipe P) hfl)
  exact ⟨t, hexec, hfacing, hpipe ▸ hresults⟩

/-- RDRX of the width of the payload at the RX queue's head returns it and removes it (41_fifo_sequencer.md R131). -/
theorem State.Facing.exec_rdrx (h : s.Facing P r) (hd : commandsDistinct P = true) {p : BitVec 3} {payload : List Byte}
    {rest : List (BitVec 3 × List Byte)} (hrx : r.rx = (p, payload) :: rest) (hlen : LengthLegal P payload.length) :
    ∃ t, exec (.rdrx payload.length) s = .next t ∧ t.Facing P { r with rx := rest, bracket := .outside } ∧
      t.results = s.results ++ [.bytes payload] := by
  have hplan : planOf P (.rdrx payload.length) = .ok (.frame ⟨.fr, P.cmdRRxPayload, [], payload.length⟩ .dataBytes) :=
    framePlan_ok_iff.2 ⟨hlen, rfl⟩
  obtain ⟨t, hexec, hfacing, hresults⟩ := h.exec_readFrame hplan fun j _ => by
    rw [RefTarget.dataByte_cmdRRxPayload hd, RefTarget.payloadByte, hrx]
  rw [r.afterFrame_cmdRRxPayload hd, hrx] at hfacing
  exact ⟨t, hexec, hfacing, hresults⟩

/-- Settles O45: the three operations one after another, the second leaving the RX queue empty. -/
theorem receiveReadsPipeThenPayload : Obligations.ReceiveReadsPipeThenPayload := by
  intro s r p payload hs ht hb hd hsrc hrx hfl hlen
  have h : s.Facing s.params r := ⟨hs, rfl, ht⟩
  obtain ⟨t, ht, htfacing, htresults⟩ := h.exec_rxpipe hb hsrc hfl
  obtain ⟨u, hu, hufacing, huresults⟩ := htfacing.exec_rdrx hd hrx hlen
  obtain ⟨v, hv, -, hvresults⟩ := hufacing.exec_rxpipe hb hsrc hfl
  refine ⟨t, u, v, ht, hu, hv, ?_⟩
  simp [hvresults, huresults, htresults, RefTarget.headPipe, hrx]

end Sys2Proof.Machine
end

/-! Proofs of the statements of 30_encoding.md: the pseudo-operations as their expansions, what an operation drives on the
bus, and the decoder, from what each row of table E2 says to the operation read back from its word. -/

/-! ## The pseudo-operations (30_encoding.md R94) -/

section
namespace Sys2Proof.Machine

variable {s t : State}

/-- A whole frame returns no result of its own (40_register_access.md R110). -/
theorem State.frame_results (s : State) {r : FrameReq} (hr : r.shaped) : (s.frame r).results = s.results := by
  obtain ⟨st, ins, tgt, dr, -, h⟩ := s.frame_spec r hr
  rw [h]
  rfl

/-- A request that was carried out had a plan. -/
theorem planOf_of_exec {i : Instr} (h : exec i s = .next t) : ∃ p, planOf s.params i = .ok p := by
  rw [exec_eq_execPlan] at h
  obtain ⟨-, ⟨r, ret, hp, -⟩ | ⟨hp, -⟩ | ⟨hp, -⟩⟩ := State.execPlan_cases h
  · exact ⟨_, hp⟩
  · exact ⟨_, hp⟩
  · exact ⟨_, hp⟩

/-- Two operations that plan the same frame differ in the result they make of what the target answered to it, and in
nothing else. -/
theorem exec_of_same_frame (hs : s.Idle) {i j : Instr} {r : FrameReq} {ret ret' : Return}
    (hi : planOf s.params i = .ok (.frame r ret)) (hj : planOf s.params j = .ok (.frame r ret'))
    (h : exec i s = .next t) :
    ∃ stat rbuf, t.results = s.results ++ [ret.value stat rbuf] ∧
      exec j s = .next { t with results := s.results ++ [ret'.value stat rbuf] } := by
  rw [exec_eq_execPlan, hi, s.execPlan_frame hs] at h
  cases h
  have hresults := s.frame_results (planOf_frame hi).1
  refine ⟨(s.frame r).stat, (s.frame r).rbuf, by rw [State.runFrame, State.finish_results, hresults], ?_⟩
  rw [exec_eq_execPlan, hj, s.execPlan_frame hs, ← hresults]
  rfl

/-- With `ReadStatusReg` RXPIPE reads the status register (42_status_ops.md R151). -/
theorem planOf_rxpipe_readStatusReg {P : Params} (h : P.statusSource = .readStatusReg) :
    planOf P .rxpipe = registerPlan P P.regStatus ⟨.fr, cmdRead P P.regStatus, [], 1⟩ .pipeOfData := by
  rw [planOf, planRxpipe, h]

/-- With `NopCommand` it sends a bare command (42_status_ops.md R151). -/
theorem planOf_rxpipe_nopCommand {P : Params} (h : P.statusSource = .nopCommand) :
    planOf P .rxpipe = framePlan P ⟨.fc, cmdNop, [], 0⟩ .pipeOfStatus := by
  rw [planOf, planRxpipe, h]

/-- Settles O24: FLTX and FLRX have the plan of their command, and the others the frame of their expansion. -/
theorem pseudoOperationsExpand : Obligations.PseudoOperationsExpand := by
  intro s hs
  refine ⟨rfl, rfl, fun hmask t h => ?_, fun hsrc t h => ?_, fun hsrc t h => ?_⟩
  · obtain ⟨p, hp⟩ := planOf_of_exec h
    obtain ⟨ha, hlen, rfl⟩ := registerPlan_ok_iff.1 hp
    have hclr : planOf s.params .clrirq = .ok (.frame _ .nothing) := planClrirq_ok_iff.2 ⟨hmask, ha, hlen, rfl⟩
    obtain ⟨_, _, -, hexec⟩ := exec_of_same_frame hs hp hclr h
    exact hexec
  · obtain ⟨p, hp⟩ := planOf_of_exec h
    obtain ⟨ha, hlen, rfl⟩ := registerPlan_ok_iff.1 hp
    have hpipe := (planOf_rxpipe_readStatusReg hsrc).trans (registerPlan_ok_iff.2 ⟨ha, hlen, rfl⟩)
    obtain ⟨_, rbuf, hresults, hexec⟩ := exec_of_same_frame hs hp hpipe h
    exact ⟨rbuf.headD 0, hresults, hexec⟩
  · obtain ⟨p, hp⟩ := planOf_of_exec h
    obtain ⟨hlen, rfl⟩ := framePlan_ok_iff.1 hp
    have hpipe := (planOf_rxpipe_nopCommand hsrc).trans (framePlan_ok_iff.2 ⟨hlen, rfl⟩)
    obtain ⟨stat, _, hresults, hexec⟩ := exec_of_same_frame hs hp hpipe h
    exact ⟨stat, hresults, hexec⟩

end Sys2Proof.Machine
end

/-! ## What an operation drives on the bus (30_encoding.md R80 to R83) -/

section
namespace Sys2Proof.Machine

/-- A shaped frame sends as many data bytes as it has data exchanges (30_encoding.md R81 to R83). -/
theorem sentData_length (P : Params) {r : FrameReq} (hr : r.shaped) : (sentData P r).length = r.len := by
  obtain ⟨kind, command, data, len⟩ := r
  cases kind
  · exact List.length_replicate
  · exact hr.1 rfl
  · exact (hr.2 rfl).1.symm

/-- What is driven in a frame is its bracket and the bytes sent, whatever was answered (30_encoding.md R80). -/
theorem drivenOf_frameEvents (c st : Byte) {outs ins : List Byte} (h : outs.length = ins.length) :
    (frameEvents c st (outs.zip ins)).map drivenOf = drivenFrame (c :: outs) := by
  have hsent : (outs.zip ins).map (fun p => Driven.sent p.1) = outs.map .sent :=
    List.map_map.symm.trans (congrArg (List.map Driven.sent) (List.map_fst_zip h.le))
  simp [frameEvents, drivenFrame, drivenOf, Function.comp_def, hsent]

/-- The bus word of an operation of one frame is the frame it plans (30_encoding.md tables E1, E3). -/
theorem encode_of_planOf_frame {P : Params} {i : Instr} {r : FrameReq} {ret : Return}
    (h : planOf P i = .ok (.frame r ret)) : encode P i = ⟨false, [r.command :: sentData P r]⟩ := by
  cases i <;>
    simp only [planOf, planRdreg, planRdbuf, planWrreg, planWrbuf, planCmd, planRdrx, planFltx, planFlrx, planTxpulse,
      framePlan_ok_iff, registerPlan_ok_iff, planLdtx_ok_iff, planClrirq_ok_iff, planTxdrain_ok_iff, Plan.frame.injEq,
      Except.ok.injEq, reduceCtorEq, and_false] at h
  case rxpipe =>
    unfold planRxpipe at h
    unfold encode
    cases hsrc : P.statusSource <;>
      simp only [hsrc, framePlan_ok_iff, registerPlan_ok_iff, Plan.frame.injEq] at h
    · obtain ⟨-, -, rfl, -⟩ := h
      rfl
    · obtain ⟨-, rfl, -⟩ := h
      rfl
  case rdreg | rdbuf | wrreg | wrbuf =>
    obtain ⟨-, -, rfl, -⟩ := h
    rfl
  case cmd | rdrx | fltx | flrx =>
    obtain ⟨-, rfl, -⟩ := h
    rfl
  case ldtx | clrirq =>
    obtain ⟨-, -, -, rfl, -⟩ := h
    rfl

/-- An operation of one frame drives the frame's bracket and bytes. -/
theorem State.runFrame_driven (s : State) {r : FrameReq} (hr : r.shaped) (ret : Return) :
    (s.runFrame r ret).trace.map drivenOf =
      s.trace.map drivenOf ++ drivenFrame (r.command :: sentData s.params r) := by
  obtain ⟨st, ins, tgt, dr, hlen, h⟩ := s.runFrame_spec r ret hr
  have hlen' : (sentData s.params r).length = ins.length := (sentData_length _ hr).trans hlen.symm
  rw [h, frameNext, frameDone, List.map_append, drivenOf_frameEvents _ _ hlen']

/-- TXDRAIN that its first poll ended drives its whole bus word (43_chip_enable_ops.md R162, R163). -/
theorem State.runDrain_driven {s : State} (h : s.runDrain.activity = .idle) :
    s.runDrain.trace.map drivenOf = s.trace.map drivenOf ++ drivenWord s.params (encode s.params .txdrain) := by
  obtain ⟨st1, f, st2, v, tgt, dr, hdrain⟩ := s.runDrain_spec
  rw [hdrain] at h ⊢
  cases hexit : exitTest s.params f v with
  | false => simp [drainNext, hexit] at h
  | true => simp [drainNext, hexit, pollEvents, frameEvents, drivenOf, drivenWord, drivenFrame, encode]

/-- Settles O33: one frame, TXPULSE's events, or TXDRAIN with one poll. -/
theorem whatIsSentIsTheEncodedWord : Obligations.WhatIsSentIsTheEncodedWord := by
  intro s t i _ hexec hreturned
  rw [exec_eq_execPlan] at hexec
  obtain ⟨-, ⟨r, ret, hp, rfl⟩ | ⟨hp, rfl⟩ | ⟨hp, rfl⟩⟩ := State.execPlan_cases hexec
  · rw [s.runFrame_driven (planOf_frame hp).1, encode_of_planOf_frame hp]
    simp [drivenWord]
  · rw [planOf_pulse hp]
    simp [State.runPulse, drivenOf, drivenWord, encode]
  · rw [(planOf_drain hp).1]
    exact State.runDrain_driven hreturned

end Sys2Proof.Machine
end

/-! ## The candidates of a bus word (30_encoding.md R80 to R87, R95) -/

section
namespace Sys2Proof.Machine

variable {P : Params}

/-- Data bytes that are all `FILL` are told by their number. -/
theorem fillBytes_eq_iff {n : Nat} {ds : List Byte} :
    fillBytes P n = ds ↔ ds = fillBytes P ds.length ∧ n = ds.length := by
  constructor
  · rintro rfl
    simp [fillBytes]
  · rintro ⟨hds, rfl⟩
    exact hds.symm

/-- A data byte that is the only one is told by their number and the first. -/
theorem singleton_eq_iff {b : Byte} {ds : List Byte} : [b] = ds ↔ ds.length = 1 ∧ b = ds.headD 0 := by
  constructor
  · rintro rfl
    exact ⟨rfl, rfl⟩
  · rintro ⟨hlen, rfl⟩
    obtain ⟨d, rfl⟩ := List.length_eq_one_iff.1 hlen
    rfl

/-- An operation sends one frame exactly if its bus word has chip-enable low and this frame. -/
theorem oneFrame_eq_iff {c c' : Byte} {ds ds' : List Byte} :
    (⟨false, [c :: ds]⟩ : BusWord) = ⟨false, [c' :: ds']⟩ ↔ c' = c ∧ ds = ds' := by
  simp [eq_comm]

/-- The rows that one frame matches are those of the well-formed operations that send it: the decoder has one row for each
operation of one frame (30_encoding.md tables E2, E3). -/
theorem mem_frameRows_iff (hr : P.cmdRRegister &&& P.regAddrMask = 0) (hw : P.cmdWRegister &&& P.regAddrMask = 0)
    {c : Byte} {ds : List Byte} {i : Instr} :
    i ∈ frameRows P c ds ↔ wellFormed P i = true ∧ encode P i = ⟨false, [c :: ds]⟩ := by
  have hread := isCmdRead_iff hr c
  have hwrite := isCmdWrite_iff hw c
  simp only [frameRows, List.mem_append, mem_row, decide_eq_true_eq]
  cases i <;> simp only [reduceCtorEq, and_false, or_false, false_or, and_true]
  case rdreg addr =>
    rw [encode, oneFrame_eq_iff, Instr.rdreg.injEq, wellFormed, decide_eq_true_iff]
    have := hread addr
    tauto
  case rdbuf addr n =>
    rw [encode, oneFrame_eq_iff, fillBytes_eq_iff, Instr.rdbuf.injEq, wellFormed, decide_eq_true_iff]
    have := hread addr
    grind
  case wrreg addr b =>
    rw [encode, oneFrame_eq_iff, singleton_eq_iff, Instr.wrreg.injEq, wellFormed, decide_eq_true_iff]
    have := hwrite addr
    tauto
  case wrbuf addr w =>
    rw [encode, oneFrame_eq_iff, Instr.wrbuf.injEq, wellFormed, decide_eq_true_iff]
    have := hwrite addr
    grind
  case cmd op =>
    rw [encode, oneFrame_eq_iff, Instr.cmd.injEq, wellFormed, decide_eq_true_iff]
    tauto
  case ldtx w =>
    rw [encode, oneFrame_eq_iff, Instr.ldtx.injEq, wellFormed, decide_eq_true_iff]
    grind
  case rdrx n =>
    rw [encode, oneFrame_eq_iff, fillBytes_eq_iff, Instr.rdrx.injEq, wellFormed, decide_eq_true_iff]
    grind
  case fltx | flrx =>
    rw [encode, oneFrame_eq_iff, wellFormed, decide_eq_true_iff]
    tauto
  case rxpipe =>
    rw [encode, wellFormed]
    cases P.statusSource <;> simp only [oneFrame_eq_iff, decide_eq_true_eq]
    · tauto
    · tauto
  case clrirq =>
    rw [encode, oneFrame_eq_iff, wellFormed, decide_eq_true_iff]
    tauto
  case txpulse | txdrain => simp [encode]

/-- Only the operations of one frame leave chip-enable low (30_encoding.md table E3). -/
theorem frames_of_encode {i : Instr} (h : (encode P i).chipEnable = false) :
    ∃ c ds, (encode P i).frames = [c :: ds] := by
  cases i
  case txpulse | txdrain => cases h
  case rxpipe =>
    rw [encode]
    split
    · exact ⟨_, _, rfl⟩
    · exact ⟨_, _, rfl⟩
  all_goals exact ⟨_, _, rfl⟩

/-- Only TXPULSE and TXDRAIN raise chip-enable (43_chip_enable_ops.md R160). -/
theorem chipEnable_of_encode {i : Instr} (h : (encode P i).chipEnable = true) : i = .txpulse ∨ i = .txdrain := by
  cases i
  case txpulse => exact .inl rfl
  case txdrain => exact .inr rfl
  case rxpipe =>
    rw [encode] at h
    split at h <;> cases h
  all_goals cases h

/-- TXDRAIN sends the frames that are its poll (43_chip_enable_ops.md R163). -/
theorem isPoll_iff {frames : List (List Byte)} :
    isPoll P frames = true ↔ wellFormed P .txdrain = true ∧ encode P .txdrain = ⟨true, frames⟩ := by
  rw [isPoll, decide_eq_true_iff, wellFormed, encode, BusWord.mk.injEq]
  tauto

/-- The candidates of a word with chip-enable raised: TXPULSE for no frame, TXDRAIN for its poll. -/
theorem mem_candidates_chipEnable_iff {frames : List (List Byte)} {i : Instr} :
    i ∈ candidates P ⟨true, frames⟩ ↔ wellFormed P i = true ∧ encode P i = ⟨true, frames⟩ := by
  have hrows : i ∈ candidates P ⟨true, frames⟩ ↔
      (frames = [] ∧ i = .txpulse) ∨ (isPoll P frames = true ∧ i = .txdrain) := by
    cases frames with
    | nil => simp [candidates, isPoll]
    | cons f fs => simp [candidates, mem_row]
  rw [hrows, isPoll_iff]
  constructor
  · rintro (⟨rfl, rfl⟩ | ⟨hsends, rfl⟩)
    · exact ⟨rfl, rfl⟩
    · exact hsends
  · rintro ⟨hwf, hword⟩
    obtain rfl | rfl := chipEnable_of_encode (congrArg BusWord.chipEnable hword)
    · exact .inl ⟨(congrArg BusWord.frames hword).symm, rfl⟩
    · exact .inr ⟨⟨hwf, hword⟩, rfl⟩

/-- No row matches a word with chip-enable low that is not one frame with a command byte. -/
theorem candidates_eq_nil {frames : List (List Byte)} (h : ¬∃ c ds, frames = [c :: ds]) :
    candidates P ⟨false, frames⟩ = [] := by
  match frames with
  | [] | [[]] | [] :: _ :: _ | (_ :: _) :: _ :: _ => rfl
  | [c :: ds] => exact absurd ⟨c, ds, rfl⟩ h

/-- Settles O37: with chip-enable raised, for one frame, and for what no operation sends. -/
theorem candidatesAreExactlyTheSenders : Obligations.CandidatesAreExactlyTheSenders := by
  rintro P ⟨_ | _, frames⟩ i hr hw
  case true => exact mem_candidates_chipEnable_iff
  case false =>
    by_cases hframe : ∃ c ds, frames = [c :: ds]
    · obtain ⟨c, ds, rfl⟩ := hframe
      exact mem_frameRows_iff hr hw
    · rw [candidates_eq_nil hframe]
      refine ⟨fun h => absurd h List.not_mem_nil, fun ⟨_, hword⟩ => absurd ?_ hframe⟩
      obtain ⟨c, ds, h⟩ := frames_of_encode (congrArg BusWord.chipEnable hword)
      exact ⟨c, ds, (congrArg BusWord.frames hword).symm.trans h⟩

end Sys2Proof.Machine
end

/-! ## The operation read back from its word (30_encoding.md R85, R94, R95) -/

section
namespace Sys2Proof.Machine

variable {P : Params} {c : Byte} {ds : List Byte}

/-- A row that matches. -/
theorem row_of_hit (i : Instr) {p : Prop} [Decidable p] (h : p) : row (decide p) i = [i] := by
  rw [row, decide_eq_true h, if_pos rfl]

/-- A row that does not match. -/
theorem row_of_miss (i : Instr) {p : Prop} [Decidable p] (h : ¬p) : row (decide p) i = [] := by
  rw [row, if_neg (by rwa [decide_eq_true_iff])]

/-- The decoder answers the first candidate. -/
theorem decode_of_candidates {b : BusWord} {i : Instr} (h : (candidates P b).head? = some i) : decode P b = .ok i := by
  obtain ⟨rest, hrest⟩ := List.head?_eq_some_iff.1 h
  rw [decode, hrest]

/-- For one frame that is the first row it matches. -/
theorem decode_of_frameRows {i : Instr} (h : (frameRows P c ds).head? = some i) : decode P ⟨false, [c :: ds]⟩ = .ok i :=
  decode_of_candidates h

/-- Data bytes of another number than one are no single byte. -/
theorem ne_singleton {b : Byte} (h : ds.length ≠ 1) : ds ≠ [b] :=
  fun hds => h (congrArg List.length hds)

/-- The rows of a bare command that is no register's and none of the fixed ones of another row. -/
theorem frameRows_cmd (hsrc : P.statusSource = .readStatusReg) (hlen : LengthLegal P 0)
    (hun : unambiguous P (.cmd c) = true) : frameRows P c [] = [.cmd c] := by
  rw [unambiguous, decide_eq_true_iff] at hun
  obtain ⟨hread, hwrite, hrdrx, hfltx, hflrx, -, -⟩ := hun
  have hpayload : PayloadLenLegal P → 0 ≠ P.payloadLen := fun h => (Nat.lt_of_succ_le h.1).ne
  have hnil : ∀ b : Byte, [] ≠ [b] := fun b => (List.cons_ne_nil b []).symm
  rw [frameRows, hsrc, row_of_miss .fltx fun hit => hfltx hit.1, row_of_miss .flrx fun hit => hflrx hit.1,
    row_of_miss (.rdrx _) fun hit => hrdrx hit.1, row_of_miss (.ldtx _) fun hit => hpayload hit.2.1 hit.2.2.1,
    row_of_miss .rxpipe fun hit => hnil _ hit.2.1, row_of_miss .clrirq fun hit => hnil _ hit.2.1,
    row_of_miss (.rdreg _) fun hit => hread hit.1, row_of_miss (.wrreg _ _) fun hit => hwrite hit.1,
    row_of_miss (.rdbuf _ _) fun hit => hread hit.1, row_of_miss (.wrbuf _ _) fun hit => hwrite hit.1,
    row_of_hit (.cmd _) ⟨rfl, hlen⟩]
  rfl

section
variable (hd : commandsDistinct P = true)
include hd

/-- A register command's byte is none of the fixed ones that table E2 has a row for (30_encoding.md R85, R87). -/
theorem ne_fixed_of_register (h : IsCmdRead P c ∨ IsCmdWrite P c) :
    c ≠ P.cmdFlushTx ∧ c ≠ P.cmdFlushRx ∧ c ≠ P.cmdRRxPayload ∧ c ≠ cmdLoadPayload P := by
  obtain ⟨-, -, hfixed⟩ := commandsDistinct_iff.1 hd
  have hne : ∀ f ∈ fixedCommands P, c ≠ f := by
    rintro f hf rfl
    exact h.elim (hfixed c hf).1 (hfixed c hf).2
  refine ⟨hne _ (by simp [fixedCommands]), hne _ (by simp [fixedCommands]), hne _ (by simp [fixedCommands]), ?_⟩
  rcases cmdLoadPayload_eq P with hload | hload <;> rw [hload] <;> exact hne _ (by simp [fixedCommands])

variable (hb : blockLegal P = true) (hsrc : P.statusSource = .readStatusReg)
include hb hsrc

/-- The rows of a read command of a legal address, the most specific first. -/
theorem frameRows_cmdRead {addr : Byte} (ha : AddrLegal P addr) : frameRows P (cmdRead P addr) ds =
    row (decide (addr = P.regStatus ∧ ds = [P.fill] ∧ LengthLegal P 1)) .rxpipe ++
    row (decide (ds = [P.fill] ∧ LengthLegal P 1)) (.rdreg addr) ++
    row (decide (ds = fillBytes P ds.length ∧ LengthLegal P ds.length)) (.rdbuf addr ds.length) ++
    row (decide (ds = [] ∧ LengthLegal P 0)) (.cmd (cmdRead P addr)) := by
  obtain ⟨hread, hfield⟩ := isCmdRead_cmdRead hb ha
  have hstatus := addrLegal_regStatus hb
  have hwrite : ¬IsCmdWrite P (cmdRead P addr) := fun hw => not_isCmdRead_of_isCmdWrite hd hw hread
  have hclr : cmdRead P addr ≠ cmdWrite P P.regStatus := fun h => hwrite (h ▸ (isCmdWrite_cmdWrite hb hstatus).1)
  have hinj : cmdRead P addr = cmdRead P P.regStatus ↔ addr = P.regStatus :=
    ⟨fun h => by rw [← hfield, h, (isCmdRead_cmdRead hb hstatus).2], congrArg _⟩
  obtain ⟨hfltx, hflrx, hrdrx, hldtx⟩ := ne_fixed_of_register hd (.inl hread)
  rw [frameRows, row_of_miss .fltx fun hit => hfltx hit.1, row_of_miss .flrx fun hit => hflrx hit.1,
    row_of_miss (.rdrx _) fun hit => hrdrx hit.1, row_of_miss (.ldtx _) fun hit => hldtx hit.1,
    row_of_miss .clrirq fun hit => hclr hit.1, row_of_miss (.wrreg _ _) fun hit => hwrite hit.1,
    row_of_miss (.wrbuf _ _) fun hit => hwrite hit.1]
  simp only [hsrc, eq_true hread, hfield, hinj, eq_true hstatus, true_and, List.nil_append, List.append_nil]

/-- The rows of a write command of a legal address, the most specific first. -/
theorem frameRows_cmdWrite {addr : Byte} (ha : AddrLegal P addr) : frameRows P (cmdWrite P addr) ds =
    row (decide (addr = P.regStatus ∧ ds = [P.irqClearMask] ∧ LengthLegal P 1)) .clrirq ++
    row (decide (ds.length = 1 ∧ LengthLegal P 1)) (.wrreg addr (ds.headD 0)) ++
    row (decide (LengthLegal P ds.length)) (.wrbuf addr ds) ++
    row (decide (ds = [] ∧ LengthLegal P 0)) (.cmd (cmdWrite P addr)) := by
  obtain ⟨hwrite, hfield⟩ := isCmdWrite_cmdWrite hb ha
  have hstatus := addrLegal_regStatus hb
  have hmask := irqMaskLegal hb
  have hread : ¬IsCmdRead P (cmdWrite P addr) := not_isCmdRead_of_isCmdWrite hd hwrite
  have hpipe : cmdWrite P addr ≠ cmdRead P P.regStatus := fun h => hread (h ▸ (isCmdRead_cmdRead hb hstatus).1)
  have hinj : cmdWrite P addr = cmdWrite P P.regStatus ↔ addr = P.regStatus :=
    ⟨fun h => by rw [← hfield, h, (isCmdWrite_cmdWrite hb hstatus).2], congrArg _⟩
  obtain ⟨hfltx, hflrx, hrdrx, hldtx⟩ := ne_fixed_of_register hd (.inr hwrite)
  rw [frameRows, hsrc, row_of_miss .fltx fun hit => hfltx hit.1, row_of_miss .flrx fun hit => hflrx hit.1,
    row_of_miss (.rdrx _) fun hit => hrdrx hit.1, row_of_miss (.ldtx _) fun hit => hldtx hit.1,
    row_of_miss .rxpipe fun hit => hpipe hit.1, row_of_miss (.rdreg _) fun hit => hread hit.1,
    row_of_miss (.rdbuf _ _) fun hit => hread hit.1]
  simp only [eq_true hwrite, hfield, hinj, eq_true hstatus, eq_true hmask, true_and, and_true, List.nil_append,
    List.append_nil]

/-- Decode of encode is the operation, for every operation whose word no more specific row sends, where the command bytes are
told apart and RXPIPE reads the status register. -/
theorem decode_encode {i : Instr} (hwf : wellFormed P i = true) (hun : unambiguous P i = true) :
    decode P (encode P i) = .ok i := by
  obtain ⟨hldtx, ⟨hfltx, hfltx'⟩, hflrx, hflrx', hflush⟩ := fixedCommands_told_apart hd
  have hstatus := addrLegal_regStatus hb
  have hone : LengthLegal P 1 := lengthLegal_of_le hb (by omega)
  have hzero : LengthLegal P 0 := lengthLegal_of_le hb (Nat.zero_le _)
  have hfill : ∀ n, (fillBytes P n).length = n := fun n => List.length_replicate
  cases i
  case rdreg addr =>
    obtain ⟨ha, hlen⟩ := of_decide_eq_true hwf
    have hun := of_decide_eq_true hun
    have hne : addr ≠ P.regStatus := hun.resolve_right (by simp [hsrc])
    refine decode_of_frameRows ?_
    rw [frameRows_cmdRead hd hb hsrc ha, row_of_miss .rxpipe fun hit => hne hit.1, row_of_hit (.rdreg _) ⟨rfl, hlen⟩]
    rfl
  case rdbuf addr n =>
    obtain ⟨ha, hlen⟩ := of_decide_eq_true hwf
    have hun := of_decide_eq_true hun
    have hne : fillBytes P n ≠ [P.fill] := ne_singleton (by rwa [hfill])
    refine decode_of_frameRows ?_
    rw [frameRows_cmdRead hd hb hsrc ha, row_of_miss .rxpipe fun hit => hne hit.2.1,
      row_of_miss (.rdreg _) fun hit => hne hit.1, hfill, row_of_hit (.rdbuf _ _) ⟨rfl, hlen⟩]
    rfl
  case wrreg addr b =>
    obtain ⟨ha, hlen⟩ := of_decide_eq_true hwf
    have hun := of_decide_eq_true hun
    have hne : ¬(addr = P.regStatus ∧ [b] = [P.irqClearMask] ∧ LengthLegal P 1) := fun ⟨haddr, hdata, _⟩ =>
      hun.elim (absurd haddr) (absurd (List.singleton_inj.1 hdata))
    refine decode_of_frameRows ?_
    rw [frameRows_cmdWrite hd hb hsrc ha, row_of_miss .clrirq hne, row_of_hit (.wrreg _ _) ⟨rfl, hlen⟩]
    rfl
  case wrbuf addr w =>
    obtain ⟨ha, hlen⟩ := of_decide_eq_true hwf
    have hun := of_decide_eq_true hun
    refine decode_of_frameRows ?_
    rw [frameRows_cmdWrite hd hb hsrc ha, row_of_miss .clrirq fun hit => ne_singleton hun hit.2.1,
      row_of_miss (.wrreg _ _) fun hit => hun hit.1, row_of_hit (.wrbuf _ _) hlen]
    rfl
  case cmd op => exact decode_of_frameRows (congrArg List.head? (frameRows_cmd hsrc hzero hun))
  case ldtx w =>
    have hwf := of_decide_eq_true hwf
    have hne {f : Byte} (h : ¬(f = P.cmdWTxPayload ∨ f = P.cmdWTxPayloadNoack)) : cmdLoadPayload P ≠ f :=
      fun heq => h (heq ▸ cmdLoadPayload_eq P)
    refine decode_of_frameRows ?_
    rw [frameRows, row_of_miss .fltx fun hit => hne hfltx' hit.1, row_of_miss .flrx fun hit => hne hflrx' hit.1,
      row_of_miss (.rdrx _) fun hit => hldtx hit.1, row_of_hit (.ldtx _) ⟨rfl, hwf⟩]
    rfl
  case rdrx n =>
    have hwf := of_decide_eq_true hwf
    refine decode_of_frameRows ?_
    rw [frameRows, row_of_miss .fltx fun hit => hfltx.symm hit.1, row_of_miss .flrx fun hit => hflrx.symm hit.1, hfill,
      row_of_hit (.rdrx _) ⟨rfl, rfl, hwf⟩]
    rfl
  case fltx =>
    refine decode_of_frameRows ?_
    rw [frameRows, row_of_hit .fltx ⟨rfl, rfl, hzero⟩]
    rfl
  case flrx =>
    refine decode_of_frameRows ?_
    rw [frameRows, row_of_miss .fltx fun hit => hflush hit.1, row_of_hit .flrx ⟨rfl, rfl, hzero⟩]
    rfl
  case rxpipe =>
    rw [encode, hsrc]
    refine decode_of_frameRows ?_
    rw [frameRows_cmdRead hd hb hsrc hstatus, row_of_hit .rxpipe ⟨rfl, rfl, hone⟩]
    rfl
  case clrirq =>
    refine decode_of_frameRows ?_
    rw [frameRows_cmdWrite hd hb hsrc hstatus, row_of_hit .clrirq ⟨rfl, rfl, hone⟩]
    rfl
  case txpulse => rfl
  case txdrain =>
    have hpoll : isPoll P (encode P .txdrain).frames = true := isPoll_iff.2 ⟨hwf, rfl⟩
    exact decode_of_candidates (congrArg List.head? (if_pos hpoll))

end

/-- Settles O38: the default configuration tells its command bytes apart. -/
theorem decodeOfEncodeIsTheOperation : Obligations.DecodeOfEncodeIsTheOperation :=
  fun _ hwf hun => decode_encode (by decide) (by decide) rfl hwf hun

/-- Settles O36: thirteen of the words are encodings, and a bracket with no exchange is no operation's. -/
theorem wordsOfTheTablesDecode : Obligations.WordsOfTheTablesDecode := by
  have hdecode := decodeOfEncodeIsTheOperation
  exact ⟨hdecode (.rdreg 0x00) (by decide) (by decide), hdecode (.rdbuf 0x0A 5) (by decide) (by decide),
    hdecode (.wrreg 0x1F 0xFF) (by decide) (by decide),
    hdecode (.wrbuf 0x10 [0xD7, 0x1C, 0xCA, 0x3B, 0x8A]) (by decide) (by decide),
    hdecode (.ldtx [0x01, 0x02, 0x03, 0x04]) (by decide) rfl, hdecode (.rdrx 4) (by decide) rfl,
    hdecode .fltx (by decide) rfl, hdecode .flrx (by decide) rfl, hdecode .rxpipe (by decide) rfl,
    hdecode .clrirq (by decide) rfl, hdecode (.cmd 0xFF) (by decide) (by decide), hdecode .txdrain (by decide) rfl,
    hdecode .txpulse rfl rfl, rfl⟩

end Sys2Proof.Machine
end

/-! Proofs of the statements of 40_register_access.md: the five operations, the small steps and what they write, and how
operations in small steps, as one action and one after another agree. -/

/-! ## The register-access operations (40_register_access.md R116 to R120) -/

section
namespace Sys2Proof.Machine

/-- An idle block carries out an operation that plans one frame, and returns what it makes of the answers
(40_register_access.md R110). -/
theorem runsFrame_of_planOf {s : State} (hs : s.Idle) {i : Instr} {r : FrameReq} {ret : Return}
    {v : Byte → List Byte → Result} (hp : planOf s.params i = .ok (.frame r ret))
    (hv : ∀ st ins, ret.value st (if r.kind = .fr then ins else []) = v st ins) : RunsFrame i s r v := by
  obtain ⟨hr, -⟩ := planOf_frame hp
  have hexec : exec i s = .next (s.runFrame r ret) := by rw [exec_eq_execPlan, hp, s.execPlan_frame hs]
  constructor
  · obtain ⟨st, ins, tgt, dr, hlen, hrun⟩ := s.runFrame_spec r ret hr
    exact ⟨st, ins, tgt, dr, hlen, by rw [hexec, hrun, hv]⟩
  · intro st ins rest hlen ht
    rw [hexec, s.runFrame_script r ret hr st ins rest hlen ht, hv]

section
variable {P : Params} {addr : Byte} {r : FrameReq} {ret : Return}

/-- A frame longer than `LEN_MAX` is refused (40_register_access.md R110). -/
theorem framePlan_lengthOverLimit (hl : LenMaxLegal P) (h : P.lenMax < r.len) :
    framePlan P r ret = .error (.lengthOverLimit r.len) := by
  rw [framePlan, if_neg fun hlen => absurd hlen.2 (Nat.not_le_of_lt h), if_pos hl]

/-- So it is on a register whose address is legal. -/
theorem registerPlan_lengthOverLimit (ha : AddrLegal P addr) (hl : LenMaxLegal P) (h : P.lenMax < r.len) :
    registerPlan P addr r ret = .error (.lengthOverLimit r.len) := by
  rw [registerPlan, if_pos ha, framePlan_lengthOverLimit hl h]

/-- An operation on a register whose address is not legal is refused first (30_encoding.md R86). -/
theorem registerPlan_malformedAddress (ha : ¬AddrLegal P addr) :
    registerPlan P addr r ret = .error (.malformedAddress addr) := by
  rw [registerPlan, if_neg ha]

end

/-- Settles O13: RDREG plans one read frame of one byte. -/
theorem rdregReturnsTheDataByte : Obligations.RdregReturnsTheDataByte :=
  fun _ _ hs => ⟨fun ha hlen => runsFrame_of_planOf hs (planOf_rdreg ha hlen) fun _ _ => rfl,
    fun ha => exec_refused hs (registerPlan_malformedAddress ha)⟩

/-- Settles O14: RDBUF plans one read frame of `n` bytes. -/
theorem rdbufReturnsTheDataBytes : Obligations.RdbufReturnsTheDataBytes :=
  fun _ _ _ hs => ⟨fun ha hlen => runsFrame_of_planOf hs (planOf_rdbuf ha hlen) fun _ _ => rfl,
    fun ha hl h => exec_refused hs (registerPlan_lengthOverLimit ha hl h),
    fun ha => exec_refused hs (registerPlan_malformedAddress ha)⟩

/-- Settles O15: WRREG plans one write frame of one byte. -/
theorem wrregSendsOneByteAndReturnsTheStatus : Obligations.WrregSendsOneByteAndReturnsTheStatus :=
  fun _ _ b hs => ⟨fun ha hlen => runsFrame_of_planOf hs (planOf_wrreg ha hlen b) fun _ _ => rfl,
    fun ha => exec_refused hs (registerPlan_malformedAddress ha)⟩

/-- Settles O16: WRBUF plans one write frame of the given bytes. -/
theorem wrbufSendsTheBytesAndReturnsTheStatus : Obligations.WrbufSendsTheBytesAndReturnsTheStatus :=
  fun _ _ _ hs => ⟨fun ha hlen => runsFrame_of_planOf hs (planOf_wrbuf ha hlen) fun _ _ => rfl,
    fun ha hl h => exec_refused hs (registerPlan_lengthOverLimit ha hl h),
    fun ha => exec_refused hs (registerPlan_malformedAddress ha)⟩

/-- Settles O17: CMD plans a bare command of its opcode, whichever it is. -/
theorem cmdSendsItsOpcodeAndReturnsTheStatus : Obligations.CmdSendsItsOpcodeAndReturnsTheStatus :=
  fun _ _ hs hlen => runsFrame_of_planOf hs (framePlan_ok_iff.2 ⟨hlen, rfl⟩) fun _ _ => rfl

end Sys2Proof.Machine
end

/-! ## The small steps (40_register_access.md R111 to R115) -/

section
namespace Sys2Proof.Machine

variable {s : State}

/-- S1: an idle block accepts an operation of one frame. -/
theorem State.startInstr_frame (hs : s.Idle) {i : Instr} {r : FrameReq} {ret : Return}
    (hp : planOf s.params i = .ok (.frame r ret)) :
    s.startInstr i = .next { s.accept r with activity := .frame ret } := by
  simp [State.startInstr, State.startPlan, hp, hs.busy_eq_false]

/-- An idle block accepts TXPULSE with CE(1) (43_chip_enable_ops.md R161). -/
theorem State.startInstr_txpulse (hs : s.Idle) :
    s.startInstr .txpulse = .next { s.setEnable .high with activity := .pulse .raised } := by
  simp [State.startInstr, State.startPlan, planOf, planTxpulse, hs.busy_eq_false]

/-- An idle block accepts TXDRAIN with CE(1) under a configuration it can poll with (43_chip_enable_ops.md R162). -/
theorem State.startInstr_txdrain (hs : s.Idle) (h : txdrainLegal s.params = true) :
    s.startInstr .txdrain = .next { s.setEnable .high with activity := .drain .raised } := by
  have hp : planOf s.params .txdrain = .ok .drain := planTxdrain_ok_iff.2 ⟨h, rfl⟩
  simp [State.startInstr, State.startPlan, hp, hs.busy_eq_false]

/-- A busy block accepts no request (40_register_access.md R111). -/
theorem State.startInstr_busy (hb : s.busy = true) (i : Instr) : s.startInstr i = .refused .requestWhileBusy := by
  simp [State.startInstr, State.startPlan, hb]

/-- A busy block carries out no request (70_reset_and_hazards.md R219). -/
theorem exec_busy (hb : s.busy = true) (i : Instr) : exec i s = .refused .requestWhileBusy := by
  rw [exec_eq_execPlan, s.execPlan_busy _ hb]

/-- A block with a frame in progress is busy. -/
theorem State.busy_of_inFrame (hp : s.phase ≠ .idle) : s.busy = true := by simp [State.busy, hp]

/-- S2: the command exchange is always enabled. -/
theorem State.smallStep_cmd (hp : s.phase = .cmd) : s.smallStep = .next s.commandExchange := by
  rw [State.smallStep, hp]

/-- S3: a data exchange that is enabled. -/
theorem State.smallStep_data (hp : s.phase = .data) (he : s.dataEnabled = true) :
    s.smallStep = .next s.dataExchange := by
  simp only [State.smallStep, hp, he, if_true]

/-- S4 hands `(STAT, RBUF)` to a one-frame operation, which returns. -/
theorem State.handOver_frame {ret : Return} (ha : s.activity = .frame ret) :
    s.handOver = .next (s.finish (ret.value s.stat s.rbuf)) := by
  simp only [State.handOver, ha]

/-- S4 hands the FIFO status byte to TXDRAIN, which keeps its flag. -/
theorem State.handOver_readFifo (ha : s.activity = .drain .readFifo) :
    s.handOver =
      .next { s with activity := .drain (.readStatus (txEmptyOf s.params (s.rbuf.headD 0))) } := by
  simp only [State.handOver, ha]

/-- S4 hands the status byte to TXDRAIN, which makes its exit test. -/
theorem State.handOver_readStatus {e : Bool} (ha : s.activity = .drain (.readStatus e)) :
    s.handOver =
      .next { s with activity := .drain (if e || maxRtOf s.params (s.rbuf.headD 0) then .lower else .readFifo) } := by
  simp only [State.handOver, ha]

/-- S3 of a read frame is enabled while `IDX < LEN`. -/
theorem State.dataEnabled_of_read (hi : s.idx < s.len) (hk : s.opk = .fr) : s.dataEnabled = true :=
  decide_eq_true ⟨hi, .inl hk⟩

/-- S3 of a write frame is enabled while `IDX < LEN` and there is a byte to send. -/
theorem State.dataEnabled_of_write (hi : s.idx < s.len) (hk : s.opk = .fw) (hw : s.idx < s.wbuf.length) :
    s.dataEnabled = true :=
  decide_eq_true ⟨hi, .inr ⟨hk, hw⟩⟩

/-- What S3 of a read frame writes: `FILL` goes out and the answer is kept. -/
theorem State.dataExchange_of_read (hk : s.opk = .fr) :
    s.dataExchange = { s.exchanged s.params.fill with
      rbuf := s.rbuf ++ [s.received s.params.fill], idx := s.idx + 1,
      phase := if s.idx + 1 = s.len then .fin else .data } := by
  simp only [State.dataExchange, State.dataOut, if_pos hk]

/-- What S3 of a write frame writes: `WBUF[IDX]` goes out and the answer is dropped. -/
theorem State.dataExchange_of_write (hk : s.opk = .fw) {b : Byte} (hb : s.wbuf[s.idx]? = some b) :
    s.dataExchange = { s.exchanged b with
      idx := s.idx + 1, phase := if s.idx + 1 = s.len then .fin else .data } := by
  have hne : s.opk ≠ .fr := by simp [hk]
  simp only [State.dataExchange, State.dataOut, if_neg hne, List.getD_eq_getElem?_getD, hb, Option.getD_some]
  rfl

/-- Settles O30: S1 to S4 one after another, S3 for a read and for a write frame. -/
theorem smallStepsWriteTheLatches : Obligations.SmallStepsWriteTheLatches := by
  intro s
  refine ⟨fun i r ret hs hp => ⟨(planOf_frame hp).2, State.startInstr_frame hs hp⟩,
    fun hp i => ⟨exec_busy (State.busy_of_inFrame hp) i, State.startInstr_busy (State.busy_of_inFrame hp) i⟩,
    fun hp => ⟨_, _, State.smallStep_cmd hp⟩, fun hp hi hk => ?_, fun b hp hi hk hb => ?_, fun ret hp ha => ?_⟩
  · rw [State.smallStep_data hp (State.dataEnabled_of_read hi hk), State.dataExchange_of_read hk]
    exact ⟨_, _, rfl⟩
  · obtain ⟨hw, -⟩ := List.getElem?_eq_some_iff.1 hb
    rw [State.smallStep_data hp (State.dataEnabled_of_write hi hk hw), State.dataExchange_of_write hk hb]
    exact ⟨_, _, rfl⟩
  · rw [State.smallStep_fin hp, State.handOver_frame (s := s.endFrame) ha]
    rfl

/-- R34: in `PHASE = DATA` there is a byte to exchange. -/
theorem State.latchesAgree.dataEnabled (h : s.latchesAgree) (hp : s.phase = .data) : s.dataEnabled = true := by
  obtain ⟨-, -, hfc, -, -, hdata, -, hfw⟩ := h
  have hi := hdata hp
  cases hk : s.opk with
  | fr => exact State.dataEnabled_of_read hi hk
  | fw => exact State.dataEnabled_of_write hi hk (by rw [hfw (by simp [hp]) hk]; exact hi)
  | fc => rw [hfc hk] at hi; exact absurd hi (Nat.not_lt_zero _)

/-- The end of a frame that belongs to an operation has someone to hand over to. -/
theorem State.frameOwned.handOver_next (h : s.frameOwned) : ∃ t, s.handOver = .next t := by
  obtain ⟨ret, ha, -⟩ | ⟨ha | ⟨e, ha⟩, -⟩ := h
  · exact ⟨_, State.handOver_frame ha⟩
  · exact ⟨_, State.handOver_readFifo ha⟩
  · exact ⟨_, State.handOver_readStatus ha⟩

/-- Outside a frame the operation in progress always has its next event. -/
theorem State.lineStep_next (hact : s.activityAgrees) (hp : s.phase = .idle) : ∃ t, s.lineStep = .next t := by
  unfold State.lineStep
  split
  case h_2 ret ha =>
    simp only [State.activityAgrees, ha] at hact
    exact absurd hp hact.1
  all_goals exact ⟨_, rfl⟩

/-- Under the invariant every state has its next small step: in each `PHASE` the one that R34 enables. -/
theorem State.Inv.smallStep_next (h : s.Inv) : ∃ t, s.smallStep = .next t := by
  obtain ⟨hl, hact, -⟩ := h
  cases hp : s.phase with
  | idle =>
    rw [State.smallStep_idle hp]
    exact State.lineStep_next hact hp
  | cmd => exact ⟨_, State.smallStep_cmd hp⟩
  | data => exact ⟨_, State.smallStep_data hp (hl.dataEnabled hp)⟩
  | fin =>
    have howned : s.frameOwned := (State.activityAgrees_iff_frameOwned (by simp [hp])).1 hact
    rw [State.smallStep_fin hp]
    exact State.frameOwned.handOver_next (s := s.endFrame) howned

/-- Settles O5: the small step that `PHASE` calls for is enabled, busy or not. -/
theorem busyBlockAlwaysHasAStep : Obligations.BusyBlockAlwaysHasAStep :=
  fun _ h _ => h.smallStep_next

/-- A small step takes no input. -/
theorem State.smallStep_inputs {t : State} (h : s.smallStep = .next t) : t.inputs = s.inputs := by
  rcases State.smallStep_cases h with ⟨-, rfl⟩ | ⟨-, -, rfl⟩ | ⟨-, ret, -, rfl⟩ | ⟨-, -, rfl⟩ | ⟨-, e, -, rfl⟩ |
    ⟨-, -, rfl⟩ | ⟨-, -, rfl⟩ | ⟨-, -, rfl⟩ | ⟨-, -, rfl⟩ | ⟨-, -, rfl⟩ | ⟨-, -, rfl⟩ | ⟨-, -, rfl⟩
  all_goals rfl

/-- Settles O9: `exec` refuses, and the step is a small step. -/
theorem noRequestIsAcceptedWhileBusy : Obligations.NoRequestIsAcceptedWhileBusy := by
  intro s hb
  refine ⟨exec_busy hb, fun t hw hstep => ?_⟩
  rw [step_waits hb hw] at hstep
  exact State.smallStep_inputs hstep

end Sys2Proof.Machine
end

/-! ## Small steps and one action (40_register_access.md R115) -/

section
namespace Sys2Proof.Machine

variable {s : State}

/-- A run that begins with the acceptance of a request. -/
theorem steps_of_start (hs : s.Idle) {i : Instr} {rest : List Input} (hin : s.inputs = .start i :: rest) {t : State}
    (h : ({ s with inputs := rest } : State).startInstr i = .next t) (n : Nat) : steps (n + 1) s = steps n t :=
  steps_succ_of ((step_of_start hs hin).trans h)

/-- Between frames of an operation in progress a step is its next line event. -/
theorem step_line (hp : s.phase = .idle) (ha : s.activity ≠ .idle) (hw : waits s.inputs = true) :
    step s = s.lineStep := by
  rw [step_waits (by simp [State.busy, ha]) hw, State.smallStep_idle hp]

/-- TXPULSE from its CE(1) on: DLY and CE(0) (43_chip_enable_ops.md R161). -/
theorem steps_pulse (hp : s.phase = .idle) (hw : waits s.inputs = true) :
    steps 2 { s.setEnable .high with activity := .pulse .raised } = .next s.runPulse := by
  have hdelay : step { s.setEnable .high with activity := .pulse .raised } =
      .next { (s.setEnable .high).delay s.params.tCeHoldUs with activity := .pulse .held } :=
    step_line hp (by simp) hw
  rw [steps_succ_of hdelay, steps_one]
  exact step_line hp (by simp) hw

/-- Settles O31: after S1 the rest of a frame, or the rest of TXPULSE, is known. -/
theorem smallStepsAgreeWithOneAction : Obligations.SmallStepsAgreeWithOneAction := by
  intro s i rest hs hwf hi hw hin
  have hs' : ({ s with inputs := rest } : State).Idle := hs
  obtain ⟨p, hp⟩ := planOf_of_wellFormed hwf
  rw [exec_eq_execPlan, hp]
  match p with
  | .frame r ret =>
    rw [smallSteps_frame hp, steps_of_start hs hin (State.startInstr_frame hs' hp),
      steps_frame _ r (planOf_frame hp).1 (.frame ret) hw, State.handOver_frame rfl, State.execPlan_frame _ hs']
    rfl
  | .pulse =>
    obtain rfl := planOf_pulse hp
    rw [smallSteps, steps_of_start hs hin (State.startInstr_txpulse hs'), steps_pulse hs'.1 hw,
      State.execPlan_pulse hs']
  | .drain => exact absurd (planOf_drain hp).1 hi

/-- A one-register read of TXDRAIN in small steps, from its S1 to its hand-over. -/
theorem steps_readOne (hp : s.phase = .idle) {a : Activity} (ha : a ≠ .idle) (hw : waits s.inputs = true) {addr : Byte}
    (hline : ({ s with activity := a } : State).lineStep =
      .next { s.accept (readOne s.params addr) with activity := a }) :
    steps 4 { s with activity := a } = ({ s.frame (readOne s.params addr) with activity := a } : State).handOver := by
  rw [steps_succ_of ((step_line (s := { s with activity := a }) hp ha hw).trans hline)]
  exact steps_frame s _ (readOne_shaped _ _) a hw

/-- A whole frame leaves the inputs alone. -/
theorem State.frame_inputs (s : State) {r : FrameReq} (hr : r.shaped) : (s.frame r).inputs = s.inputs := by
  obtain ⟨st, ins, tgt, dr, -, h⟩ := s.frame_spec r hr
  rw [h]
  rfl

/-- The first read of a poll takes four steps (43_chip_enable_ops.md R163). -/
theorem steps_pollFifo (hp : s.phase = .idle) (hw : waits s.inputs = true) :
    steps 4 { s with activity := .drain .readFifo } =
      .next { s.pollFifo with activity := .drain (.readStatus s.pollEmpty) } := by
  have hparams : s.pollFifo.params = s.params := s.frame_params (readOne_shaped _ _)
  rw [steps_readOne (addr := s.params.regFifoStatus) hp (by simp) hw rfl, State.handOver_readFifo rfl,
    State.pollEmpty, ← hparams]
  rfl

/-- One whole poll takes eight steps, and the exit test is made at its end (43_chip_enable_ops.md R162, R163). -/
theorem steps_poll (hp : s.phase = .idle) (hw : waits s.inputs = true) :
    steps 8 { s with activity := .drain .readFifo } =
      .next { s.poll with activity := .drain (if s.pollEmpty || s.pollMaxRt then .lower else .readFifo) } := by
  have hparams : s.pollFifo.params = s.params := s.frame_params (readOne_shaped _ _)
  have hparams' : s.poll.params = s.params := (s.pollFifo.frame_params (readOne_shaped _ _)).trans hparams
  have hw' : waits s.pollFifo.inputs = true := by rwa [State.pollFifo, s.frame_inputs (readOne_shaped _ _)]
  rw [steps_add 4 4 _ _ (steps_pollFifo hp hw),
    steps_readOne (addr := s.pollFifo.params.regStatus) rfl (by simp) hw' rfl, State.handOver_readStatus rfl,
    State.pollMaxRt, ← hparams', hparams]
  rfl

/-- TXDRAIN from its CE(1) on: DLY and its first poll (43_chip_enable_ops.md R162). -/
theorem steps_drain (hp : s.phase = .idle) (hw : waits s.inputs = true) :
    steps 9 { s.setEnable .high with activity := .drain .raised } =
      .next { s.raiseDrain.poll with
        activity := .drain (if s.raiseDrain.pollEmpty || s.raiseDrain.pollMaxRt then .lower else .readFifo) } := by
  have hdelay : step { s.setEnable .high with activity := .drain .raised } =
      .next { s.raiseDrain with activity := .drain .readFifo } := step_line hp (by simp) hw
  rw [steps_succ_of hdelay]
  exact steps_poll (s := s.raiseDrain) hp hw

/-- A poll leaves the inputs alone. -/
theorem State.poll_inputs (s : State) : s.poll.inputs = s.inputs :=
  (s.pollFifo.frame_inputs (readOne_shaped _ _)).trans (s.frame_inputs (readOne_shaped _ _))

/-- The block was idle before a request it carried out. -/
theorem idle_of_exec {t : State} {i : Instr} (h : exec i s = .next t) : s.Idle := by
  rw [exec_eq_execPlan] at h
  exact State.idle_of_not_busy (State.execPlan_cases h).1

/-- TXDRAIN that was carried out could poll, and went up to its first exit test. -/
theorem runDrain_of_exec {t : State} (h : exec .txdrain s = .next t) :
    txdrainLegal s.params = true ∧ t = s.runDrain := by
  obtain ⟨p, hp⟩ := planOf_of_exec h
  obtain ⟨hlegal, -⟩ := planTxdrain_ok_iff.1 hp
  rw [exec_txdrain s (idle_of_exec h) hlegal] at h
  cases h
  exact ⟨hlegal, rfl⟩

/-- Settles O32: after ten steps the exit test has been made, and where it held the eleventh is CE(0). -/
theorem drainSmallStepsAgreeWithOneAction : Obligations.DrainSmallStepsAgreeWithOneAction := by
  intro s t rest hs hw hin hexec
  obtain ⟨hlegal, rfl⟩ := runDrain_of_exec hexec
  have hten := (steps_of_start hs hin (State.startInstr_txdrain (s := { s with inputs := rest }) hs hlegal) 9).trans
    (steps_drain hs.1 hw)
  rw [smallSteps, State.runDrain]
  split
  case isTrue hexit =>
    refine ⟨fun h => absurd rfl h, fun _ => ?_⟩
    rw [if_pos hexit] at hten
    rw [steps_add 10 1 _ _ hten, steps_one]
    exact step_line rfl (by simp) (by rw [State.poll_inputs]; exact hw)
  case isFalse hstay =>
    refine ⟨fun _ => ?_, fun h => by cases h⟩
    rw [if_neg hstay] at hten
    exact hten

end Sys2Proof.Machine
end

/-! ## Sequences of calls (40_register_access.md R121, 70_reset_and_hazards.md R215) -/

section
namespace Sys2Proof.Machine

variable {s t u : State}

/-- Only TXDRAIN may still be in progress after one action (40_register_access.md R121). -/
theorem exec_returns {i : Instr} (hi : i ≠ .txdrain) (h : exec i s = .next t) : t.Idle := by
  rw [exec_eq_execPlan] at h
  obtain ⟨hb, ⟨r, ret, -, rfl⟩ | ⟨-, rfl⟩ | ⟨hp, -⟩⟩ := State.execPlan_cases h
  · exact ⟨rfl, rfl⟩
  · exact ⟨(State.idle_of_not_busy hb).1, rfl⟩
  · exact absurd (planOf_drain hp).1 hi

/-- The idle block has gone from `s` to the idle `t` with `driven` sent, chip-enable as it was or low, and chip-select
not left low. -/
structure State.Drove (s t : State) (driven : List Driven) : Prop where
  idle : t.Idle
  params : t.params = s.params
  ce : t.ce = s.ce ∨ t.ce = .low
  csn : s.csn = .high → t.csn = .high
  trace : t.trace.map drivenOf = s.trace.map drivenOf ++ driven

/-- Nothing done, nothing driven. -/
theorem State.Drove.refl (hs : s.Idle) : s.Drove s [] :=
  ⟨hs, rfl, .inl rfl, id, (List.append_nil _).symm⟩

/-- What is driven one after the other is driven in all. -/
theorem State.Drove.trans {d e : List Driven} (h : s.Drove t d) (h' : t.Drove u e) : s.Drove u (d ++ e) where
  idle := h'.idle
  params := h'.params.trans h.params
  ce := h'.ce.elim (fun hce => hce ▸ h.ce) .inr
  csn := h'.csn ∘ h.csn
  trace := by rw [h'.trace, h.trace, List.append_assoc]

/-- A well-formed call but TXDRAIN completes, drives its word and takes no further input. -/
theorem exec_drove (hs : s.Idle) {i : Instr} (hi : i ≠ .txdrain) (hwf : wellFormed s.params i = true) :
    ∃ t, exec i s = .next t ∧ t.inputs = s.inputs ∧ s.Drove t (drivenWord s.params (encode s.params i)) := by
  obtain ⟨t, hexec⟩ := (exactlyTheWellFormedRequestsRun s i hs).2 hwf
  have hidle := exec_returns hi hexec
  have htrace := whatIsSentIsTheEncodedWord s t i hs hexec hidle.2
  obtain ⟨-, ⟨r, ret, hp, rfl⟩ | ⟨-, rfl⟩ | ⟨hp, -⟩⟩ := State.execPlan_cases ((exec_eq_execPlan i s).symm.trans hexec)
  · obtain ⟨hr, -⟩ := planOf_frame hp
    exact ⟨_, hexec, s.frame_inputs hr, hidle, s.frame_params hr, .inl (s.frame_ce hr), fun _ => rfl, htrace⟩
  · exact ⟨_, hexec, rfl, hidle, rfl, .inr rfl, id, htrace⟩
  · exact absurd (planOf_drain hp).1 hi

/-- An item of a requester's program that completes in one step: a delay, or a well-formed call but TXDRAIN. -/
def Input.completes (P : Params) (x : Input) : Prop :=
  (∃ us, x = .delay us) ∨ ∃ i, x = .call i ∧ i ≠ .txdrain ∧ wellFormed P i = true

/-- It does complete in one step, and drives what it names. -/
theorem step_drove (hs : s.Idle) {x : Input} {rest : List Input} (hin : s.inputs = x :: rest)
    (hx : x.completes s.params) :
    ∃ t, step s = .next t ∧ t.inputs = rest ∧ s.Drove t (drivenInput s.params x) := by
  obtain ⟨us, rfl⟩ | ⟨i, rfl, hi, hwf⟩ := hx
  · refine ⟨({ s with inputs := rest } : State).delay us, ?_, rfl, hs, rfl, .inl rfl, id, ?_⟩
    · simp [step, hin, hs.busy_eq_false]
    · simp [drivenInput, drivenOf]
  · obtain ⟨t, hexec, hinputs, hdrove⟩ := exec_drove (s := { s with inputs := rest }) hs hi hwf
    obtain ⟨hidle, hparams, hce, hcsn, htrace⟩ := hdrove
    exact ⟨t, (step_of_call hs hin).trans hexec, hinputs, hidle, hparams, hce, hcsn, htrace⟩

/-- A program of such items runs to its end, one step an item. -/
theorem steps_drove (program : List Input) {rest : List Input} (hs : s.Idle) (hin : s.inputs = program ++ rest)
    (hx : ∀ x ∈ program, x.completes s.params) :
    ∃ t, steps program.length s = .next t ∧ t.inputs = rest ∧
      s.Drove t (program.flatMap (drivenInput s.params)) := by
  induction program generalizing s with
  | nil => exact ⟨s, rfl, hin, .refl hs⟩
  | cons x program ih =>
    obtain ⟨t, hstep, hinputs, hdrove⟩ := step_drove hs hin (hx x List.mem_cons_self)
    obtain ⟨u, hrun, hrest, hdrove'⟩ := ih hdrove.idle hinputs fun y hy => by
      rw [hdrove.params]
      exact hx y (List.mem_cons_of_mem x hy)
    rw [hdrove.params] at hdrove'
    exact ⟨u, (steps_succ_of hstep).trans hrun, hrest, hdrove.trans hdrove'⟩

/-- Settles O34, by induction on the program. -/
theorem callSequencesDriveTheirWords : Obligations.CallSequencesDriveTheirWords := by
  intro s program rest hs hin hx
  obtain ⟨t, hrun, hrest, ⟨hidle, -, hce, hcsn, htrace⟩⟩ := steps_drove program hs hin hx
  exact ⟨t, hrun, hidle, hrest, hce, hcsn, htrace⟩

end Sys2Proof.Machine
end

/-! ## What is sent and the target (40_register_access.md R121 g, 43_chip_enable_ops.md R165 f) -/

section
namespace Sys2Proof.Machine

/-- What TXDRAIN drives up to its first exit test, but for the CE(0) of its exit. -/
def drivenDrain (P : Params) : List Driven :=
  [.ce .high, .dly P.tCeHoldUs] ++ (encode P .txdrain).frames.flatMap drivenFrame

/-- The answers decide only whether CE(0) follows (43_chip_enable_ops.md R165 f). -/
theorem State.runDrain_driven_cases (s : State) :
    s.runDrain.trace.map drivenOf = s.trace.map drivenOf ++ drivenDrain s.params ∨
    s.runDrain.trace.map drivenOf = s.trace.map drivenOf ++ drivenDrain s.params ++ [.ce .low] := by
  obtain ⟨st1, f, st2, v, tgt, dr, h⟩ := s.runDrain_spec
  rw [h]
  cases hexit : exitTest s.params f v with
  | false =>
    exact .inl (by simp [drainNext, hexit, pollEvents, frameEvents, drivenOf, drivenDrain, drivenFrame, encode])
  | true =>
    exact .inr (by simp [drainNext, hexit, pollEvents, frameEvents, drivenOf, drivenDrain, drivenFrame, encode])

/-- Settles O35: both runs drive the operation's word, or TXDRAIN's part of it up to the exit test. -/
theorem whatIsSentDoesNotDependOnTheTarget : Obligations.WhatIsSentDoesNotDependOnTheTarget := by
  intro s i tgt dr t u ht hu
  have hother (hi : i ≠ .txdrain) : u.trace.map drivenOf = t.trace.map drivenOf :=
    calc u.trace.map drivenOf
      _ = s.trace.map drivenOf ++ drivenWord s.params (encode s.params i) :=
        whatIsSentIsTheEncodedWord { s with target := tgt, draws := dr } u i (idle_of_exec hu) hu (exec_returns hi hu).2
      _ = t.trace.map drivenOf := (whatIsSentIsTheEncodedWord s t i (idle_of_exec ht) ht (exec_returns hi ht).2).symm
  refine ⟨hother, ?_⟩
  by_cases hi : i = .txdrain
  · subst hi
    obtain ⟨-, rfl⟩ := runDrain_of_exec ht
    obtain ⟨-, rfl⟩ := runDrain_of_exec hu
    have hs := s.runDrain_driven_cases
    have hs' := ({ s with target := tgt, draws := dr } : State).runDrain_driven_cases
    rcases hs with hs | hs <;> rcases hs' with hs' | hs'
    · exact .inl (hs'.trans hs.symm)
    · exact .inr (.inl (by rw [hs', hs]))
    · exact .inr (.inr (by rw [hs, hs']))
    · exact .inl (hs'.trans hs.symm)
  · exact .inl (hother hi)

end Sys2Proof.Machine
end

/-! Proofs of the statements of 41_fifo_sequencer.md: the payload operations and the two flushes. -/

/-! ## The FIFO operations (41_fifo_sequencer.md R130 to R133) -/

section
namespace Sys2Proof.Machine

/-- LDTX of a payload that is not `PAYLOAD_LEN` bytes long is refused (41_fifo_sequencer.md R130). -/
theorem planLdtx_payloadLength {P : Params} (hpl : PayloadLenLegal P) {w : List Byte} (hw : w.length ≠ P.payloadLen) :
    planLdtx P w = .error (.payloadLength w.length) := by
  rw [planLdtx, if_neg (not_not_intro hpl), if_neg hw]

/-- Settles O18: LDTX plans one write frame of the payload, whose command byte is `cmdLoadPayload`. -/
theorem ldtxSendsThePayloadWithTheAckChoice : Obligations.LdtxSendsThePayloadWithTheAckChoice :=
  fun _ _ hs =>
    ⟨fun hpl hw hlen => runsFrame_of_planOf hs (planLdtx_ok_iff.2 ⟨hpl, hw, hw ▸ hlen, rfl⟩) fun _ _ => rfl,
     fun hpl hw => exec_refused hs (planLdtx_payloadLength hpl hw)⟩

/-- Settles O19: RDRX plans one read frame of `n` bytes. -/
theorem rdrxReturnsThePayloadBytes : Obligations.RdrxReturnsThePayloadBytes :=
  fun _ _ hs => ⟨fun hlen => runsFrame_of_planOf hs (framePlan_ok_iff.2 ⟨hlen, rfl⟩) fun _ _ => rfl,
    fun hl h => exec_refused hs (framePlan_lengthOverLimit hl h)⟩

/-- Settles O20: FLTX and FLRX each plan a bare command of their own command byte. -/
theorem flushesSendTheirCommandAlone : Obligations.FlushesSendTheirCommandAlone :=
  fun _ hs hlen => ⟨runsFrame_of_planOf hs (framePlan_ok_iff.2 ⟨hlen, rfl⟩) fun _ _ => rfl,
    runsFrame_of_planOf hs (framePlan_ok_iff.2 ⟨hlen, rfl⟩) fun _ _ => rfl⟩

end Sys2Proof.Machine
end

/-! Proofs of the statements of 42_status_ops.md: the pipe field, RXPIPE and CLRIRQ. -/

/-! ## The status operations (42_status_ops.md R150 to R152) -/

section
namespace Sys2Proof.Machine

/-- Shifting and masking leave the bit field `status[3:1]` (42_status_ops.md R150). -/
theorem rxPipeOf_eq_extractLsb' (status : Byte) : rxPipeOf status = status.extractLsb' 1 3 := by
  ext i hi
  have hmask : (7#3)[i] = true := BitVec.getElem_allOnes i hi
  simp [rxPipeOf, hmask]

/-- Settles O21: a bit field is a quotient by a power of two and a remainder by another. -/
theorem rxPipeOfIsStatusBitsThreeToOne : Obligations.RxPipeOfIsStatusBitsThreeToOne := by
  refine fun status => ⟨?_, rxPipeOf_eq_extractLsb' status⟩
  rw [rxPipeOf_eq_extractLsb', BitVec.extractLsb'_toNat, Nat.shiftRight_eq_div_pow]

/-- Settles O22: RXPIPE plans one read frame of the status register, or the bare command `0xFF`; the result is the pipe
field of the byte its status source gives. -/
theorem rxpipeReturnsThePipeField : Obligations.RxpipeReturnsThePipeField :=
  fun _ hs =>
    ⟨fun hsrc ha hlen => runsFrame_of_planOf hs
      ((planOf_rxpipe_readStatusReg hsrc).trans (registerPlan_ok_iff.2 ⟨ha, hlen, rfl⟩)) fun _ _ => rfl,
     fun hsrc hlen => runsFrame_of_planOf hs
      ((planOf_rxpipe_nopCommand hsrc).trans (framePlan_ok_iff.2 ⟨hlen, rfl⟩)) fun _ _ => rfl⟩

/-- Settles O23: CLRIRQ plans one write frame of `IRQ_CLEAR_MASK`, which R92 makes the latched bits. -/
theorem clrirqWritesTheLatchedBits : Obligations.ClrirqWritesTheLatchedBits := by
  intro s hs ha hlen hmask
  have ⟨_, _, _, hlatched⟩ := hmask
  refine ⟨hlatched, ?_⟩
  have hplan := planClrirq_ok_iff.2 ⟨hmask, ha, hlen, rfl⟩
  rw [hlatched] at hplan
  exact runsFrame_of_planOf hs (i := .clrirq) hplan fun _ _ => rfl

end Sys2Proof.Machine
end

/-! Proofs of the statements of 43_chip_enable_ops.md: which steps move chip-enable, the exact outcomes of TXPULSE and
TXDRAIN, and the TXDRAIN that never returns. -/

/-! ## TXPULSE, and what moves chip-enable (43_chip_enable_ops.md R160, R161) -/

section
namespace Sys2Proof.Machine

variable {s t : State}

/-- Settles O25: TXPULSE plans a pulse, whose three events are one after another. -/
theorem txpulsePulsesChipEnable : Obligations.TxpulsePulsesChipEnable := by
  intro s hs
  have hrun : s.runPulse = { s with
      ce := .low
      trace := s.trace ++ [.ce .high, .dly s.params.tCeHoldUs, .ce .low]
      results := s.results ++ [.nothing] } := by
    simp [State.runPulse, State.finish, State.setEnable, State.delay, State.emit, hs.2]
  rw [exec_eq_execPlan, ← hrun]
  exact State.execPlan_pulse hs

/-- A small step moves chip-enable only as the CE(0) of TXPULSE or TXDRAIN (43_chip_enable_ops.md R160). -/
theorem State.smallStep_moves_ce (h : s.smallStep = .next t) (hne : t.ce ≠ s.ce) :
    s.phase = .idle ∧ (s.activity = .pulse .held ∨ s.activity = .drain .lower) := by
  rcases State.smallStep_cases h with ⟨-, rfl⟩ | ⟨-, -, rfl⟩ | ⟨-, ret, -, rfl⟩ | ⟨-, -, rfl⟩ | ⟨-, e, -, rfl⟩ |
    ⟨-, -, rfl⟩ | ⟨-, -, rfl⟩ | ⟨hp, ha, -⟩ | ⟨-, -, rfl⟩ | ⟨-, -, rfl⟩ | ⟨-, -, rfl⟩ | ⟨hp, ha, -⟩
  · exact absurd rfl hne
  · exact absurd rfl hne
  · exact absurd rfl hne
  · exact absurd rfl hne
  · exact absurd rfl hne
  · exact absurd rfl hne
  · exact absurd rfl hne
  · exact ⟨hp, .inl ha⟩
  · exact absurd rfl hne
  · exact absurd rfl hne
  · exact absurd rfl hne
  · exact ⟨hp, .inr ha⟩

/-- A request carried out as one action moves chip-enable only if it is TXPULSE or TXDRAIN. -/
theorem exec_moves_ce {i : Instr} (h : exec i s = .next t) (hne : t.ce ≠ s.ce) : i = .txpulse ∨ i = .txdrain := by
  rw [exec_eq_execPlan] at h
  obtain ⟨-, ⟨r, ret, hp, rfl⟩ | ⟨hp, -⟩ | ⟨hp, -⟩⟩ := State.execPlan_cases h
  · exact absurd (s.frame_ce (planOf_frame hp).1) hne
  · exact .inl (planOf_pulse hp)
  · exact .inr (planOf_drain hp).1

/-- So does a request accepted in small steps. -/
theorem State.startInstr_moves_ce {i : Instr} (h : s.startInstr i = .next t) (hne : t.ce ≠ s.ce) :
    i = .txpulse ∨ i = .txdrain := by
  obtain ⟨-, ⟨r, ret, -, rfl⟩ | ⟨hp, -⟩ | ⟨hp, -⟩⟩ := State.startPlan_cases h
  · exact absurd rfl hne
  · exact .inl (planOf_pulse hp)
  · exact .inr (planOf_drain hp).1

/-- An operation of one frame is not a chip-enable operation (30_encoding.md table E3). -/
theorem not_chipEnable_of_planOf_frame {P : Params} {i : Instr} {r : FrameReq} {ret : Return}
    (hp : planOf P i = .ok (.frame r ret)) : ¬(i = .txpulse ∨ i = .txdrain) := by
  rintro (rfl | rfl)
  · cases encode_of_planOf_frame hp
  · cases encode_of_planOf_frame hp

/-- TXDRAIN that returned after its first poll has lowered chip-enable (43_chip_enable_ops.md R162). -/
theorem State.runDrain_ce (h : s.runDrain.activity = .idle) : s.runDrain.ce = .low := by
  unfold State.runDrain at h ⊢
  split
  case isTrue => rfl
  case isFalse hstay =>
    rw [if_neg hstay] at h
    cases h

/-- Settles O26: a step is a reset, a small step or an idle block taking a request or a delay, and each moves
chip-enable only as said. -/
theorem onlyChipEnableOperationsAndResetMoveCe : Obligations.OnlyChipEnableOperationsAndResetMoveCe := by
  refine ⟨fun s t h hne => ?_, fun s t i h hreturned => ?_⟩
  · rcases step_cases h with ⟨rest, hin, -⟩ | ⟨rest, -, hsmall⟩ | hsmall | ⟨hb, i, rest, hin, hexec⟩ |
      ⟨hb, i, rest, hin, hstart⟩ | ⟨-, us, rest, -, rfl⟩
    · exact .inl (by rw [hin]; rfl)
    · exact .inr (.inr (State.smallStep_moves_ce (s := { s with inputs := rest }) hsmall hne))
    · exact .inr (.inr (State.smallStep_moves_ce hsmall hne))
    · exact .inr (.inl ⟨hb, i, exec_moves_ce (s := { s with inputs := rest }) hexec hne, .inl (by rw [hin]; rfl)⟩)
    · exact .inr (.inl ⟨hb, i, State.startInstr_moves_ce (s := { s with inputs := rest }) hstart hne,
        .inr (by rw [hin]; rfl)⟩)
    · exact absurd rfl hne
  · rw [exec_eq_execPlan] at h
    obtain ⟨-, ⟨r, ret, hp, rfl⟩ | ⟨hp, rfl⟩ | ⟨hp, rfl⟩⟩ := State.execPlan_cases h
    · rw [if_neg (not_chipEnable_of_planOf_frame hp)]
      exact s.frame_ce (planOf_frame hp).1
    · rw [if_pos (.inl (planOf_pulse hp))]
      rfl
    · rw [if_pos (.inr (planOf_drain hp).1)]
      exact State.runDrain_ce hreturned

end Sys2Proof.Machine
end

/-! ## One poll of TXDRAIN (43_chip_enable_ops.md R162, R163) -/

section
namespace Sys2Proof.Machine

variable {s : State}

/-- Settles O27: CE(1) and the hold time leave the target to the first poll. -/
theorem txdrainRaisesPollsAndTests : Obligations.TxdrainRaisesPollsAndTests := by
  intro s hs hlegal
  rw [exec_txdrain s hs hlegal]
  refine ⟨?_, fun st1 f st2 v rest ht => ?_⟩
  · obtain ⟨st1, f, st2, v, tgt, dr, hdrain⟩ := s.runDrain_spec
    exact ⟨st1, f, st2, v, tgt, dr, congrArg _ hdrain⟩
  · obtain ⟨hpoll, he, hm⟩ := s.raiseDrain.poll_script st1 f st2 v rest ht
    exact congrArg _ (s.runDrain_of_poll st1 f st2 v _ _ _ _ hpoll he hm)

/-- A block about to poll carries out one whole poll in eight steps, the exit test at its end. -/
theorem steps_of_readFifo (hp : s.phase = .idle) (ha : s.activity = .drain .readFifo) (hw : waits s.inputs = true) :
    steps 8 s =
      .next { s.poll with activity := .drain (if s.pollEmpty || s.pollMaxRt then .lower else .readFifo) } := by
  have h := steps_poll hp hw
  rwa [← ha] at h

/-- The state after one whole poll and its exit test, from what the poll did. -/
theorem State.pollDone_of_poll {st1 f st2 v : Byte} {tgt tgt2 : Target} {dr dr2 : Nat}
    (h : s.poll = frameDone (frameDone s (readOne s.params s.params.regFifoStatus) st1 [f] tgt dr)
      (readOne s.params s.params.regStatus) st2 [v] tgt2 dr2)
    (he : s.pollEmpty = txEmptyOf s.params f) (hm : s.pollMaxRt = maxRtOf s.params v) :
    { s.poll with activity := .drain (if s.pollEmpty || s.pollMaxRt then .lower else .readFifo) } =
      pollDone s st1 f st2 v tgt2 dr2 := by
  rw [he, hm, h]
  simp [pollDone, exitTest, frameDone, readOne, pollEvents, sentData, fillBytes]

/-- Once the exit test held the next event is CE(0), and TXDRAIN returns. -/
theorem State.lineStep_lower (ha : s.activity = .drain .lower) : s.lineStep = .next s.endDrain := by
  simp only [State.lineStep, ha]

/-- Settles O28: eight steps are one poll, and a ninth is CE(0) if the exit test held. -/
theorem drainPollsUntilTheExitTest : Obligations.DrainPollsUntilTheExitTest := by
  intro s hp ha hw
  rw [steps_of_readFifo hp ha hw]
  refine ⟨?_, fun st1 f st2 v rest ht => ?_, fun st1 f st2 v tgt dr hexit => ?_⟩
  · obtain ⟨st1, f, st2, v, tgt, dr, hpoll, he, hm⟩ := s.poll_spec
    exact ⟨st1, f, st2, v, _, _, congrArg _ (State.pollDone_of_poll hpoll he hm)⟩
  · obtain ⟨hpoll, he, hm⟩ := s.poll_script st1 f st2 v rest ht
    exact congrArg _ (State.pollDone_of_poll hpoll he hm)
  · have ha' : (pollDone s st1 f st2 v tgt dr).activity = .drain .lower := by simp [pollDone, hexit]
    exact (step_line (s := pollDone s st1 f st2 v tgt dr) rfl (by simp [ha']) hw).trans (State.lineStep_lower ha')

end Sys2Proof.Machine
end

/-! ## TXDRAIN in progress (43_chip_enable_ops.md R162, R164) -/

section
namespace Sys2Proof.Machine

variable {s t u : State} {P : Params} {rs : List Result} {rest : List Input}

/-- TXDRAIN is in progress with chip-enable high; `rs` has been returned and `rest` waits. -/
structure State.Draining (s : State) (rs : List Result) (rest : List Input) : Prop where
  drain : ∃ d, s.activity = .drain d
  ce : s.ce = .high
  results : s.results = rs
  inputs : s.inputs = rest

/-- An operation in progress: the block is not idle. -/
theorem State.Draining.activity_ne_idle (h : s.Draining rs rest) : s.activity ≠ .idle := by
  obtain ⟨⟨d, hd⟩, -⟩ := h
  simp [hd]

/-- While what comes next waits, TXDRAIN ends only by returning: a step that returns nothing leaves it in progress. -/
theorem State.Draining.step (h : s.Draining rs rest) (hw : waits rest = true) (hstep : step s = .next t)
    (hr : t.results = rs) : t.Draining rs rest := by
  have hbusy : s.busy = true := by simp [State.busy, h.activity_ne_idle]
  obtain ⟨⟨d, hd⟩, hce, rfl, rfl⟩ := h
  rw [step_waits hbusy hw] at hstep
  rcases State.smallStep_cases hstep with ⟨-, rfl⟩ | ⟨-, -, rfl⟩ | ⟨-, ret, ha, -⟩ | ⟨-, -, rfl⟩ | ⟨-, e, -, rfl⟩ |
    ⟨-, ha, -⟩ | ⟨-, ha, -⟩ | ⟨-, ha, -⟩ | ⟨-, -, rfl⟩ | ⟨-, -, rfl⟩ | ⟨-, -, rfl⟩ | ⟨-, -, rfl⟩
  · exact ⟨⟨d, hd⟩, hce, rfl, rfl⟩
  · exact ⟨⟨d, hd⟩, hce, rfl, rfl⟩
  · cases hd.symm.trans ha
  · exact ⟨⟨_, rfl⟩, hce, rfl, rfl⟩
  · exact ⟨⟨_, rfl⟩, hce, rfl, rfl⟩
  · cases hd.symm.trans ha
  · cases hd.symm.trans ha
  · cases hd.symm.trans ha
  · exact ⟨⟨_, rfl⟩, hce, rfl, rfl⟩
  · exact ⟨⟨d, hd⟩, hce, rfl, rfl⟩
  · exact ⟨⟨d, hd⟩, hce, rfl, rfl⟩
  · simp [State.endDrain] at hr

/-- A run only appends results (00_scope.md R9). -/
theorem results_isPrefix_of_steps {k : Nat} (h : steps k s = .next t) : s.results <+: t.results :=
  steps_keep (p := fun u => s.results <+: u.results)
    (fun _ _ hu hstep => by
      obtain ⟨more, hmore⟩ := (step_extends hstep).results
      exact hu.trans ⟨more, hmore.symm⟩)
    ⟨[], List.append_nil _⟩ h

/-- The first step of a run. -/
theorem step_of_steps_succ {k : Nat} (h : steps (k + 1) s = .next u) : ∃ t, step s = .next t ∧ steps k t = .next u := by
  unfold steps at h
  split at h
  · exact ⟨_, ‹_›, h⟩
  · cases h
  · cases h

/-- A run of TXDRAIN that has returned nothing at its end was in progress all the way. -/
theorem State.Draining.steps_of_steps_add (h : s.Draining rs rest) (hw : waits rest = true) {a b : Nat}
    (hrun : steps (a + b) s = .next u) (hr : u.results = rs) : ∃ t, steps a s = .next t ∧ t.Draining rs rest := by
  induction a generalizing s with
  | zero => exact ⟨s, rfl, h⟩
  | succ a ih =>
    rw [Nat.add_right_comm] at hrun
    obtain ⟨t, hstep, hrest⟩ := step_of_steps_succ hrun
    have hbefore : rs <+: t.results := h.results ▸ results_isPrefix_of_steps ((steps_one s).trans hstep)
    have hafter : t.results <+: rs := hr ▸ results_isPrefix_of_steps hrest
    obtain ⟨v, hv, hdraining⟩ := ih (h.step hw hstep (hafter.eq_of_length_le hbefore.length_le)) hrest
    exact ⟨v, (steps_succ_of hstep).trans hv, hdraining⟩

/-- TXDRAIN, under the configuration `P`, is about to poll; `rs` has been returned and `rest` waits. -/
structure State.AboutToPoll (s : State) (P : Params) (rs : List Result) (rest : List Input) : Prop where
  phase : s.phase = .idle
  activity : s.activity = .drain .readFifo
  ce : s.ce = .high
  params : s.params = P
  results : s.results = rs
  inputs : s.inputs = rest

/-- A block about to poll has TXDRAIN in progress. -/
theorem State.AboutToPoll.draining (h : s.AboutToPoll P rs rest) : s.Draining rs rest :=
  ⟨⟨_, h.activity⟩, h.ce, h.results, h.inputs⟩

/-- The state after one whole poll whose exit test failed. -/
def State.pollAgain (s : State) : State := { s.poll with activity := .drain .readFifo }

@[simp] theorem State.pollAgain_target (s : State) : s.pollAgain.target = s.poll.target := rfl

/-- After a poll whose exit test failed the block is about to poll again. -/
theorem State.pollAgain_aboutToPoll (hce : s.ce = .high) :
    s.pollAgain.AboutToPoll s.params s.results s.inputs := by
  obtain ⟨st1, f, st2, v, tgt, dr, h, -, -⟩ := s.poll_spec
  rw [State.pollAgain, h]
  exact ⟨rfl, rfl, hce, rfl, rfl, rfl⟩

/-- Eight steps of a block about to poll, whose poll shows neither flag. -/
theorem State.AboutToPoll.poll (h : s.AboutToPoll P rs rest) (hw : waits rest = true)
    (hstay : (s.pollEmpty || s.pollMaxRt) = false) :
    steps 8 s = .next s.pollAgain ∧ s.pollAgain.AboutToPoll P rs rest := by
  obtain ⟨hp, ha, hce, rfl, rfl, rfl⟩ := h
  refine ⟨?_, State.pollAgain_aboutToPoll hce⟩
  rw [steps_of_readFifo hp ha hw, hstay]
  rfl

/-- TXDRAIN's first action, where its poll shows neither flag. -/
theorem exec_txdrain_pollAgain (hs : s.Idle) (hlegal : txdrainLegal s.params = true)
    (hstay : (s.raiseDrain.pollEmpty || s.raiseDrain.pollMaxRt) = false) :
    exec .txdrain s = .next s.raiseDrain.pollAgain ∧
      s.raiseDrain.pollAgain.AboutToPoll s.params s.results s.inputs := by
  refine ⟨?_, State.pollAgain_aboutToPoll rfl⟩
  rw [exec_txdrain s hs hlegal, State.runDrain, hstay]
  rfl

end Sys2Proof.Machine
end

/-! ## Targets that show neither flag (43_chip_enable_ops.md R164, 20_memory.md R71) -/

section
namespace Sys2Proof.Machine

variable {s : State} {P : Params} {rs : List Result} {rest : List Input}

/-- The exit test of a poll is made on the first byte each of its frames received (43_chip_enable_ops.md R163). -/
theorem State.poll_exitTest (s : State) :
    (s.pollEmpty || s.pollMaxRt) = exitTest s.params (s.pollFifo.rbuf.headD 0) (s.poll.rbuf.headD 0) := rfl

/-- One whole poll with a script that answers its four exchanges. -/
theorem State.poll_script_exitTest (p : PollAnswers) {more : List Byte} (ht : s.target = .oracle (p.script ++ more)) :
    (s.pollEmpty || s.pollMaxRt) = exitTest s.params p.fifo p.status ∧ s.pollAgain.target = .oracle more := by
  obtain ⟨hpoll, he, hm⟩ := s.poll_script p.st1 p.fifo p.st2 p.status more ht
  rw [he, hm, State.pollAgain, hpoll]
  exact ⟨rfl, rfl⟩

/-- With a script whose polls show neither flag, the block is about to poll again after all of them. -/
theorem State.AboutToPoll.steps_script (polls : List PollAnswers) {more : List Byte} (h : s.AboutToPoll P rs rest)
    (hw : waits rest = true) (hp : ∀ p ∈ polls, exitTest P p.fifo p.status = false)
    (ht : s.target = .oracle (polls.flatMap PollAnswers.script ++ more)) :
    ∃ t, steps (8 * polls.length) s = .next t ∧ t.AboutToPoll P rs rest ∧ t.target = .oracle more := by
  induction polls generalizing s with
  | nil => exact ⟨s, rfl, h, ht⟩
  | cons p polls ih =>
    rw [List.flatMap_cons, List.append_assoc] at ht
    obtain ⟨hexit, htarget⟩ := s.poll_script_exitTest p ht
    rw [h.params, hp p List.mem_cons_self] at hexit
    obtain ⟨height, hagain⟩ := h.poll hw hexit
    rw [List.length_cons, Nat.mul_succ, Nat.add_comm, steps_add 8 _ _ _ height]
    exact ih hagain (fun q hq => hp q (List.mem_cons_of_mem p hq)) htarget

/-- The target shows neither flag of TXDRAIN's exit test, however often it is polled: it answers one byte with neither,
or it is the reference target, its two computed registers show neither, it can tell the address in a read command, and
the two registers differ. -/
def Target.showsNeither (P : Params) : Target → Prop
  | .oracle _ => False
  | .constant b => exitTest P b b = false
  | .reference r => P.cmdRRegister &&& P.regAddrMask = 0 ∧ P.regFifoStatus ≠ P.regStatus ∧
      exitTest P (r.fifoStatus P) (r.status P) = false

/-- A one-register read from a target that always answers `b`. -/
theorem State.frame_constant {b : Byte} (ht : s.target = .constant b) (Q : Params) (addr : Byte) :
    (s.frame (readOne Q addr)).rbuf = [b] ∧ (s.frame (readOne Q addr)).target = .constant b := by
  simp [State.frame, readOne, State.dataExchanges, State.received, ht, Target.select, Target.exchange, Target.deselect]

/-- A one-register read from the reference target, of a register that it answers. -/
theorem State.frame_readByte {r : RefTarget} {addr b : Byte} (ht : s.target = .reference r) (hP : s.params = P)
    (hread : P.cmdRRegister &&& P.regAddrMask = 0) (ha : AddrLegal P addr) (hb : r.readByte P addr 0 = some b) :
    (s.frame (readOne P addr)).rbuf = [b] ∧
      (s.frame (readOne P addr)).target = .reference { r with bracket := .outside } := by
  subst hP
  obtain ⟨hclass, hfield⟩ := (isCmdRead_iff hread _ addr).2 ⟨ha, rfl⟩
  refine ⟨s.frame_answers _ 1 r ht [b] rfl fun j hj => ?_, State.frame_cmdRead_target ht (readOne_shaped _ _) hclass⟩
  obtain rfl : j = 0 := by omega
  rw [RefTarget.dataByte, if_pos hclass, ← hfield, hb]
  rfl

/-- A poll of such a target shows neither flag, and leaves it such. -/
theorem Target.showsNeither.poll (h : s.target.showsNeither s.params) (hlegal : txdrainLegal s.params = true) :
    (s.pollEmpty || s.pollMaxRt) = false ∧ s.pollAgain.target.showsNeither s.params := by
  rw [State.poll_exitTest, State.pollAgain_target]
  cases ht : s.target with
  | oracle script => simp [ht, Target.showsNeither] at h
  | constant b =>
    rw [ht] at h
    obtain ⟨hf, ht1⟩ : s.pollFifo.rbuf = [b] ∧ s.pollFifo.target = .constant b := State.frame_constant ht _ _
    obtain ⟨hv, ht2⟩ : s.poll.rbuf = [b] ∧ s.poll.target = .constant b := State.frame_constant ht1 _ _
    rw [hf, hv, ht2]
    exact ⟨h, h⟩
  | reference r =>
    rw [ht] at h
    obtain ⟨hread, hne, hexit⟩ := h
    simp only [txdrainLegal, decide_eq_true_eq] at hlegal
    obtain ⟨haf, has, -⟩ := hlegal
    have hparams : s.pollFifo.params = s.params := s.frame_params (readOne_shaped _ _)
    obtain ⟨hf, ht1⟩ : s.pollFifo.rbuf = [r.fifoStatus s.params] ∧
        s.pollFifo.target = .reference { r with bracket := .outside } :=
      State.frame_readByte ht rfl hread haf (by rw [RefTarget.readByte, if_neg hne, if_pos rfl])
    obtain ⟨hv, ht2⟩ : s.poll.rbuf = [r.status s.params] ∧
        s.poll.target = .reference { r with bracket := .outside } :=
      State.frame_readByte (r := { r with bracket := .outside }) ht1 hparams hread has (if_pos rfl)
    rw [hf, hv, ht2]
    exact ⟨hexit, hread, hne, hexit⟩

/-- Against such a target the polls go on, as many as one likes. -/
theorem State.AboutToPoll.steps_showsNeither (n : Nat) (h : s.AboutToPoll P rs rest) (hw : waits rest = true)
    (hlegal : txdrainLegal P = true) (ht : s.target.showsNeither P) :
    ∃ t, steps (8 * n) s = .next t ∧ t.AboutToPoll P rs rest := by
  induction n generalizing s with
  | zero => exact ⟨s, rfl, h⟩
  | succ n ih =>
    obtain rfl := h.params
    obtain ⟨hstay, hagain⟩ := ht.poll hlegal
    obtain ⟨height, hpoll⟩ := h.poll hw hstay
    rw [Nat.mul_succ, Nat.add_comm, steps_add 8 _ _ _ height]
    exact ih hpoll hagain

/-- So TXDRAIN never returns: after any number of further steps it is in progress, somewhere inside those polls. -/
theorem steps_txdrain_showsNeither (hs : s.Idle) (hlegal : txdrainLegal s.params = true)
    (hin : s.inputs = .call .txdrain :: rest) (hw : waits rest = true) (ht : s.target.showsNeither s.params) (k : Nat) :
    ∃ t, steps (k + 1) s = .next t ∧ t.Draining s.results rest := by
  obtain ⟨hstay, hagain⟩ := Target.showsNeither.poll (s := ({ s with inputs := rest } : State).raiseDrain) ht hlegal
  obtain ⟨hexec, hfirst⟩ := exec_txdrain_pollAgain (s := { s with inputs := rest }) hs hlegal hstay
  obtain ⟨u, hrun, hlast⟩ := hfirst.steps_showsNeither k hw hlegal hagain
  rw [show 8 * k = k + 7 * k by omega] at hrun
  rw [steps_succ_of ((step_of_call hs hin).trans hexec)]
  exact hfirst.draining.steps_of_steps_add hw hrun hlast.results

/-- Settles O29: by induction on the polls of the script, and for the two targets by `showsNeither`, which a poll
keeps. -/
theorem drainHangsWithoutTheExitFlags : Obligations.DrainHangsWithoutTheExitFlags := by
  intro s rest hs hlegal hin hw
  have hhangs (ht : s.target.showsNeither s.params) (k : Nat) : ∃ t, steps (k + 1) s = .next t ∧ t.ce = .high ∧
      t.activity ≠ .idle ∧ t.results = s.results ∧ t.inputs = rest := by
    obtain ⟨t, hrun, hdraining⟩ := steps_txdrain_showsNeither hs hlegal hin hw ht k
    exact ⟨t, hrun, hdraining.ce, hdraining.activity_ne_idle, hdraining.results, hdraining.inputs⟩
  refine ⟨fun p polls more hp ht => ?_, fun b k ht hexit => hhangs (by rw [ht]; exact hexit) k,
    fun r k ht hread hne hexit => hhangs (by rw [ht]; exact ⟨hread, hne, hexit⟩) k⟩
  rw [List.flatMap_cons, List.append_assoc] at ht
  obtain ⟨hexit, htarget⟩ := State.poll_script_exitTest (s := ({ s with inputs := rest } : State).raiseDrain) p ht
  obtain ⟨hexec, hfirst⟩ := exec_txdrain_pollAgain (s := { s with inputs := rest }) hs hlegal
    (hexit.trans (hp p List.mem_cons_self))
  obtain ⟨t, hrun, hlast, hmore⟩ :=
    hfirst.steps_script polls hw (fun q hq => hp q (List.mem_cons_of_mem p hq)) htarget
  exact ⟨t, (steps_succ_of ((step_of_call hs hin).trans hexec)).trans hrun, hlast.ce, hlast.activity,
    hlast.results, hlast.inputs, hmore⟩

end Sys2Proof.Machine
end

/-! Proofs of the statements of 70_reset_and_hazards.md: the reset event, and the runs of the boot program. -/

/-! ## The reset event (70_reset_and_hazards.md R200, R201) -/

section
namespace Sys2Proof.Machine

variable {s : State}

/-- A reset comes before everything else: the step takes it in any state. -/
theorem step_of_reset {rest : List Input} (h : s.inputs = .reset :: rest) :
    step s = .next ({ s with inputs := rest } : State).resetEvent := by
  simp [step, h]

/-- A reset event takes no further input. -/
@[simp] theorem State.resetEvent_inputs (s : State) : s.resetEvent.inputs = s.inputs := by
  by_cases hcs : s.csn = .low <;> by_cases hce : s.ce = .high <;> simp [State.resetEvent, State.releaseLines, hcs, hce]

/-- A reset event exchanges no byte. -/
@[simp] theorem State.resetEvent_draws (s : State) : s.resetEvent.draws = s.draws := by
  by_cases hcs : s.csn = .low <;> by_cases hce : s.ce = .high <;> simp [State.resetEvent, State.releaseLines, hcs, hce]

/-- With chip-select high the target sees nothing of a reset event. -/
theorem State.resetEvent_target (h : s.csn = .high) : s.resetEvent.target = s.target := by
  by_cases hce : s.ce = .high <;> simp [State.resetEvent, State.releaseLines, h, hce]

/-- Settles O6: the step is the reset event, field by field. -/
theorem resetEventReleasesTheLines : Obligations.ResetEventReleasesTheLines := by
  intro s rest hin
  obtain ⟨hcsn, hce⟩ := ({ s with inputs := rest } : State).resetEvent_lines
  exact ⟨_, step_of_reset hin, (State.resetEvent_trace _).trans (List.append_assoc ..).symm, hcsn, hce, rfl, rfl,
    State.resetEvent_results _, State.resetEvent_inputs _, State.resetEvent_params _, State.resetEvent_draws _,
    State.resetEvent_target (s := { s with inputs := rest })⟩

end Sys2Proof.Machine
end

/-! ## Programs that leave chip-enable alone (43_chip_enable_ops.md R160) -/

section
namespace Sys2Proof.Machine

variable {s t : State} {x : Input}

/-- An item that completes in one step with chip-enable as it was: a delay, or a well-formed call but TXPULSE and
TXDRAIN. -/
def Input.keepsCe (P : Params) (x : Input) : Prop := x.completes P ∧ x ≠ .call .txpulse

/-- Such an item's step moves no chip-enable. -/
theorem step_ce_of_keepsCe (hs : s.Idle) {rest : List Input} (hin : s.inputs = x :: rest) (hx : x.keepsCe s.params)
    (h : step s = .next t) : t.ce = s.ce := by
  obtain ⟨⟨us, rfl⟩ | ⟨i, rfl, hdrain, -⟩, hpulse⟩ := hx
  · simp only [step, hin, hs.busy_eq_false] at h
    cases h
    rfl
  · rw [step_of_call hs hin] at h
    by_contra hne
    obtain rfl | rfl := exec_moves_ce h hne
    · exact hpulse rfl
    · exact hdrain rfl

/-- A program of such items leaves chip-enable as it was. -/
theorem steps_ce_of_keepsCe (program : List Input) {rest : List Input} (hs : s.Idle) (hin : s.inputs = program ++ rest)
    (hx : ∀ x ∈ program, x.keepsCe s.params) (h : steps program.length s = .next t) : t.ce = s.ce := by
  induction program generalizing s with
  | nil =>
    cases h
    rfl
  | cons x program ih =>
    have hfirst := hx x List.mem_cons_self
    obtain ⟨u, hstep, hinputs, hdrove⟩ := step_drove hs hin hfirst.1
    rw [List.length_cons, steps_succ_of hstep] at h
    exact (ih hdrove.idle hinputs (fun y hy => hdrove.params ▸ hx y (List.mem_cons_of_mem x hy)) h).trans
      (step_ce_of_keepsCe hs hin hfirst hstep)

/-- If the last event driven is a delay, the trace ends with it. -/
theorem getLast?_of_driven_dly {events : List Event} {us : Nat}
    (h : (events.map drivenOf).getLast? = some (.dly us)) : events.getLast? = some (.dly us) := by
  rw [List.getLast?_map] at h
  obtain ⟨e, he, hdly⟩ := Option.map_eq_some_iff.1 h
  cases e <;> cases hdly
  exact he

end Sys2Proof.Machine
end

/-! ## The items of the boot program (70_reset_and_hazards.md R203 to R214) -/

section
namespace Sys2Proof.Machine

variable {P : Params}

/-- The registers the boot program writes, but for the status register. -/
abbrev bootRegisters (P : Params) : List Byte :=
  [P.regConfig, P.regEnAa, P.regEnRxaddr, P.regSetupAw, P.regSetupRetr, P.regRfCh, P.regRfSetup, P.regRxAddrP0,
   P.regRxAddrP1, P.regTxAddr, P.regRxPwP0, P.regRxPwP1, P.regDynpd, P.regFeature]

/-- What `bootLegal` asks: its registers and its three described bytes. -/
theorem bootLegal_iff : bootLegal P = true ↔
    (∀ reg ∈ bootRegisters P, AddrLegal P reg) ∧ PowerDownLegal P ∧ RfSetupLegal P ∧ PowerUpLegal P := by
  simp only [bootLegal, bootRegisters, Bool.and_eq_true, decide_eq_true_eq, List.forall_mem_cons, List.not_mem_nil,
    false_implies, implies_true, and_true]

/-- What `buildLegal` asks, by name. -/
theorem buildLegal_iff : buildLegal P = true ↔
    WidthLegal P ∧ (P.role = .slave → P.devNum ≤ 1) ∧ PayloadLenLegal P ∧ RetryLegal P := by
  rw [buildLegal, decide_eq_true_iff]

/-- Step 2 writes acknowledge-enable, and the retransmission byte unless the retry count is no 4-bit field (R205). -/
theorem bootStep2_cases (P : Params) : ∃ b x, bootStep2 P = [wr P.regEnAa b, x] ∧
    ((∃ b', x = wr P.regSetupRetr b') ∨ ¬RetryLegal P ∧ x = .unpredicted .retryCount) := by
  cases ha : P.autoAck with
  | false => exact ⟨_, _, bootStep2_noAck ha, .inl ⟨_, rfl⟩⟩
  | true =>
    cases hr : P.role with
    | master => exact ⟨_, _, bootStep2_master ha hr, .inl ⟨_, rfl⟩⟩
    | slave =>
      refine ⟨_, _, bootStep2_slave ha hr, ?_⟩
      by_cases hm : RetryLegal P
      · exact .inl ⟨_, if_pos hm⟩
      · exact .inr ⟨hm, if_neg hm⟩

/-- Every well-formed call but TXPULSE and TXDRAIN is such an item. -/
theorem keepsCe_call {i : Instr} (hwf : wellFormed P i = true) (hdrain : i ≠ .txdrain) (hpulse : i ≠ .txpulse) :
    (Input.call i).keepsCe P :=
  ⟨.inr ⟨i, rfl, hdrain, hwf⟩, by simpa using hpulse⟩

/-- The requester's own delay is one (R214). -/
theorem keepsCe_delay (us : Nat) : (Input.delay us).keepsCe P := ⟨.inl ⟨us, rfl⟩, by simp⟩

section
variable (hb : blockLegal P = true)
include hb

theorem keepsCe_clrirq : (Input.call .clrirq).keepsCe P :=
  keepsCe_call (decide_eq_true ⟨addrLegal_regStatus hb, lengthLegal_of_le hb (by omega), irqMaskLegal hb⟩) (by simp)
    (by simp)

theorem keepsCe_fltx : (Input.call .fltx).keepsCe P :=
  keepsCe_call (decide_eq_true (lengthLegal_of_le hb (by omega))) (by simp) (by simp)

theorem keepsCe_flrx : (Input.call .flrx).keepsCe P :=
  keepsCe_call (decide_eq_true (lengthLegal_of_le hb (by omega))) (by simp) (by simp)

variable (hboot : bootLegal P = true)
include hboot

/-- The write of one of the boot program's registers is well formed. -/
theorem keepsCe_wrreg : ∀ reg ∈ bootRegisters P, ∀ b, (Input.call (.wrreg reg b)).keepsCe P := by
  intro reg hreg b
  obtain ⟨haddr, -⟩ := bootLegal_iff.1 hboot
  exact keepsCe_call (decide_eq_true ⟨haddr reg hreg, lengthLegal_of_le hb (by omega)⟩) (by simp) (by simp)

/-- So is the write of an address of at most five bytes. -/
theorem keepsCe_wrbuf : ∀ reg ∈ bootRegisters P, ∀ w : List Byte, w.length ≤ 5 →
    (Input.call (.wrbuf reg w)).keepsCe P := by
  intro reg hreg w hw
  obtain ⟨haddr, -⟩ := bootLegal_iff.1 hboot
  exact keepsCe_call (decide_eq_true ⟨haddr reg hreg, lengthLegal_of_le hb (by omega)⟩) (by simp) (by simp)

/-- Steps 1 to 3 (R204 to R206). -/
theorem keepsCe_bootSteps_one_to_three (hm : RetryLegal P) :
    ∀ x ∈ bootStep1 P ++ bootStep2 P ++ bootStep3 P, x.keepsCe P := by
  obtain ⟨-, hpd, hrf, -⟩ := bootLegal_iff.1 hboot
  have hwr := keepsCe_wrreg hb hboot
  obtain ⟨b, x, hstep2, ⟨b', rfl⟩ | ⟨hbad, -⟩⟩ := bootStep2_cases P
  · simp [bootStep1, hstep2, bootStep3, if_pos hpd, if_pos hrf, wr, bootRegisters, hwr]
  · exact absurd hm hbad

/-- Step 4 (R207). -/
theorem keepsCe_bootStep4 (hw : WidthLegal P) : ∀ x ∈ bootStep4 P, x.keepsCe P := by
  simp [bootStep4, if_pos hw, wr, bootRegisters, keepsCe_wrreg hb hboot]

/-- Step 6 of a legal build (R209). -/
theorem keepsCe_bootStep6 (hbuild : buildLegal P = true) : ∀ x ∈ bootStep6 P, x.keepsCe P := by
  obtain ⟨hw, hdev, hpl, -⟩ := buildLegal_iff.1 hbuild
  have hwr := keepsCe_wrreg hb hboot
  have hbuf := keepsCe_wrbuf hb hboot
  cases hr : P.role with
  | master => simp [bootStep6_master hw hr hpl, bootRegisters, hwr, hbuf, hw.2]
  | slave => simp [bootStep6_slave hw hr (hdev hr), bootRegisters, hwr, hbuf, hw.2]

/-- Steps 7 to 11 (R210 to R214). -/
theorem keepsCe_bootTail : ∀ x ∈ bootTail P, x.keepsCe P := by
  simp [bootTail, bootRegisters, keepsCe_wrreg hb hboot, keepsCe_fltx hb, keepsCe_flrx hb, keepsCe_delay]

end

end Sys2Proof.Machine
end

/-! ## The boot program with an illegal width (70_reset_and_hazards.md R207, R209) -/

section
namespace Sys2Proof.Machine

variable {P : Params}

/-- Steps 1 to 3 are five items long. -/
theorem bootSteps_one_to_three_length (P : Params) : (bootStep1 P ++ bootStep2 P ++ bootStep3 P).length = 5 := by
  rw [List.length_append, bootSteps_one_two_length]
  rfl

/-- Steps 1 to 3 write to their own five registers, or hold an item at which nothing is predicted (R204 to R206). -/
theorem bootSteps_one_to_three_cases (P : Params) : ∀ x ∈ bootStep1 P ++ bootStep2 P ++ bootStep3 P,
    (∃ u, x = .unpredicted u) ∨
      ∃ reg b, reg ∈ [P.regConfig, P.regEnAa, P.regSetupRetr, P.regRfCh, P.regRfSetup] ∧ x = .call (.wrreg reg b) := by
  obtain ⟨b, x, hstep2, hx⟩ := bootStep2_cases P
  simp only [bootStep1, hstep2, bootStep3, List.forall_mem_append, List.forall_mem_cons, List.not_mem_nil,
    false_implies, implies_true, and_true]
  refine ⟨⟨?_, .inr ⟨_, b, by simp, rfl⟩, ?_⟩, .inr ⟨_, _, by simp, rfl⟩, ?_⟩
  · split
    · exact .inr ⟨_, _, by simp, rfl⟩
    · exact .inl ⟨_, rfl⟩
  · obtain ⟨b', rfl⟩ | ⟨-, rfl⟩ := hx
    · exact .inr ⟨_, b', by simp, rfl⟩
    · exact .inl ⟨_, rfl⟩
  · split
    · exact .inr ⟨_, _, by simp, rfl⟩
    · exact .inl ⟨_, rfl⟩

/-- The six operations of a program with an illegal width: steps 1 to 3 and 5 (R204 to R206, R208). -/
def bootFirstSix (P : Params) : List Input := bootStep1 P ++ bootStep2 P ++ bootStep3 P ++ [.call .clrirq]

theorem bootFirstSix_length (P : Params) : (bootFirstSix P).length = 6 := by
  rw [bootFirstSix, List.length_append, bootSteps_one_to_three_length]
  rfl

/-- With an illegal width step 4 gives nothing and step 6 is not predicted (R207). -/
theorem bootProgram_of_not_widthLegal (hw : ¬WidthLegal P) :
    ∃ rest, bootProgram P = bootFirstSix P ++ .unpredicted .addressWidth :: rest := by
  refine ⟨bootStep7 P ++ bootStep8 P ++ bootStep9 ++ bootStep10 P ++ bootStep11 P, ?_⟩
  simp only [bootProgram, bootFirstSix, bootStep4, bootStep5, bootStep6, if_neg hw, List.append_assoc, List.nil_append,
    List.cons_append]

/-- An idle block refuses an item at which nothing is predicted. -/
theorem step_of_unpredicted {s : State} (hs : s.Idle) {u : Unpredicted} {rest : List Input}
    (h : s.inputs = .unpredicted u :: rest) : step s = .refused (.bootUnpredicted u) := by
  simp [step, h, hs.busy_eq_false]

/-- Settles O47: the six operations complete, and the item after them is the one of step 6. -/
theorem bootSkipsAnIllegalWidth : Obligations.BootSkipsAnIllegalWidth := by
  refine ⟨fun P hw => ⟨?_, bootSteps_one_to_three_length P, bootSteps_one_to_three_cases P⟩,
    fun s u rest hs hin => step_of_unpredicted hs hin, fun s rest hs hb hboot hm hw hin => ?_⟩
  · obtain ⟨more, hprogram⟩ := bootProgram_of_not_widthLegal hw
    exact ⟨more, by simp [hprogram, bootFirstSix]⟩
  · obtain ⟨more, hprogram⟩ := bootProgram_of_not_widthLegal hw
    have htake : (bootProgram s.params).take 6 = bootFirstSix s.params := by
      rw [hprogram, ← bootFirstSix_length s.params, List.take_left]
    have hkeeps : ∀ x ∈ bootFirstSix s.params, x.keepsCe s.params := List.forall_mem_append.2
      ⟨keepsCe_bootSteps_one_to_three hb hboot hm, List.forall_mem_singleton.2 (keepsCe_clrirq hb)⟩
    rw [hprogram, List.append_assoc] at hin
    obtain ⟨t, hrun, hrest, hidle, -, -, -, htrace⟩ :=
      steps_drove (bootFirstSix s.params) hs hin fun x hx => (hkeeps x hx).1
    exact ⟨t, bootFirstSix_length s.params ▸ hrun, hidle, htake ▸ htrace, step_of_unpredicted hidle hrest⟩

end Sys2Proof.Machine
end

/-! ## The boot program of a legal configuration (70_reset_and_hazards.md R215) -/

section
namespace Sys2Proof.Machine

variable {P : Params}

/-- With a legal `CFG_PU_VALUE` steps 7 to 11 are `bootTail`. -/
theorem bootProgram_of_powerUpLegal (hu : PowerUpLegal P) : bootProgram P =
    bootStep1 P ++ bootStep2 P ++ bootStep3 P ++ (bootStep4 P ++ .call .clrirq :: (bootStep6 P ++ bootTail P)) := by
  simp only [bootProgram, bootStep5, bootStep7, bootStep8, bootStep9, bootStep10, bootStep11, bootFeatures, bootTail,
    wr, if_pos hu, List.append_assoc, List.cons_append, List.nil_append]

/-- Every item of the program completes with chip-enable as it was. -/
theorem keepsCe_bootProgram (hb : blockLegal P = true) (hboot : bootLegal P = true) (hbuild : buildLegal P = true) :
    ∀ x ∈ bootProgram P, x.keepsCe P := by
  obtain ⟨hw, -, -, hm⟩ := buildLegal_iff.1 hbuild
  obtain ⟨-, -, -, hu⟩ := bootLegal_iff.1 hboot
  have hend := List.forall_mem_append.2 ⟨keepsCe_bootStep6 hb hboot hbuild, keepsCe_bootTail hb hboot⟩
  have hmiddle := List.forall_mem_append.2
    ⟨keepsCe_bootStep4 hb hboot hw, List.forall_mem_cons.2 ⟨keepsCe_clrirq hb, hend⟩⟩
  rw [bootProgram_of_powerUpLegal hu]
  exact List.forall_mem_append.2 ⟨keepsCe_bootSteps_one_to_three hb hboot hm, hmiddle⟩

/-- The master's step 6 has two items more than a slave's (R209). -/
theorem bootProgram_length (hboot : bootLegal P = true) (hbuild : buildLegal P = true) :
    (bootProgram P).length = match P.role with | .master => 19 | .slave => 17 := by
  obtain ⟨hw, hdev, hpl, -⟩ := buildLegal_iff.1 hbuild
  obtain ⟨-, -, -, hu⟩ := bootLegal_iff.1 hboot
  rw [bootProgram_of_powerUpLegal hu, List.length_append, bootSteps_one_to_three_length, bootStep4, if_pos hw]
  cases hr : P.role with
  | master => rw [bootStep6_master hw hr hpl]; rfl
  | slave => rw [bootStep6_slave hw hr (hdev hr)]; rfl

/-- Settles O49: the program runs as any program of such items, and its last item is the settle delay. -/
theorem bootProgramRunsToItsEnd : Obligations.BootProgramRunsToItsEnd := by
  intro s rest hs hb hboot hbuild hin
  have hkeeps := keepsCe_bootProgram hb hboot hbuild
  obtain ⟨t, hrun, hrest, hidle, -, -, -, htrace⟩ :=
    steps_drove (bootProgram s.params) hs hin fun x hx => (hkeeps x hx).1
  refine ⟨bootProgram_length hboot hbuild, t, hrun, hidle, hrest, steps_ce_of_keepsCe _ hs hin hkeeps hrun,
    getLast?_of_driven_dly ?_, htrace⟩
  obtain ⟨front, hfront⟩ : ∃ front, bootProgram s.params = front ++ [.delay s.params.tSettleUs] := ⟨_, rfl⟩
  simp [htrace, hfront, drivenInput]

end Sys2Proof.Machine
end
